-- ==== Sys2Proof/Word.lean ====
section
/-! DEFINITION. The word types of the block (spec 00_scope.md R4, R5). A bit vector is used only where the spec numbers the bits. -/

namespace Sys2Proof

/-- A byte of the frame buffer (20_memory.md R40: "A byte is 8 bits"). -/
abbrev Byte := BitVec 8

/-- One 16-bit half of the frame, `HALF_BITS` (00_scope.md R4). -/
abbrev Half := BitVec 16

/-- The 32-bit frame, `FRAME_BITS`; bit 0 is the least significant (00_scope.md R5). -/
abbrev Frame := BitVec 32

/-- An integer result register's content, `XLEN` = 32 (00_scope.md R4, decision D6). -/
abbrev Word := BitVec 32

/-- A float result register's content, `FLEN` = 64, IEEE 754 binary64 (00_scope.md R4, decision D7). -/
abbrev F64 := BitVec 64

/-- The command word, `CMD_BITS` = 2 (30_encoding.md R61). -/
abbrev Cmd := BitVec 2

/-- The status register, 6 bits (10_state.md R26). -/
abbrev StatusWord := BitVec 6

end Sys2Proof
end

