-- ==== Sys2Proof/Config.lean ====
section
/-! DEFINITION. The parameters of the block (spec 00_scope.md R4) and the values the spec leaves open (93_implementation_defined.md). -/

namespace Sys2Proof.Config

/-- `FRAME_BYTES`: size of the frame buffer in bytes, "exactly 4 bytes" (00_scope.md R4). -/
abbrev frameBytes : Nat := 4

/-- `TC_SHIFT`: arithmetic right shift of the upper half (00_scope.md R4). -/
abbrev tcShift : Nat := 2

/-- `INT_SHIFT`: arithmetic right shift of the lower half (00_scope.md R4). -/
abbrev intShift : Nat := 4

/-- `HAS_FLOAT`: whether the optional float converter is present. The spec's value is true (00_scope.md R4, decision D8);
every meaning also exists with the parameter as an argument (`Machine.execOn`), so both blocks are modelled (log entry 11). -/
def hasFloat : Bool := true

/-- FREE VALUE (log entry 4): the content of `FRAME` after a failed transfer, "any value (a draw); no rule reads it"
(41_transaction_sequence.md R103, U2). Indexed by the number of the transfer. -/
opaque freeFrame : Nat → Frame

/-- OPEN PARAMETER (log entry 6): which numbers beside 0 tag a value of `TransportFault` (00_scope.md R4, decision D13). -/
opaque isFaultTag : Nat → Bool

end Sys2Proof.Config

namespace Sys2Proof

/-- The value the bus transceiver reports on a failed transfer: the open parameter type `TransportFault` (00_scope.md R4, decision D13). The
block never inspects it. Which values there are is uninterpreted (`Config.isFaultTag`): one, finitely many or infinitely many. DESIGN
CHOICE (log entry 6): a value is plain data, told apart by a number, and there is at least one, tagged 0, since a transfer can fail
(41_transaction_sequence.md R101). -/
structure TransportFault where
  tag : Nat
  valid : tag = 0 ∨ Config.isFaultTag tag = true
deriving DecidableEq, Repr

/-- FREE VALUE (log entry 3): whether a transfer whose answer nothing fixes fails, and with which error value; `none` when it succeeds
(41_transaction_sequence.md R107, U12). -/
opaque Config.freeFailure : Nat → Option TransportFault

/-- FREE VALUE (log entry 3): the frame such a transfer answers when it succeeds (41_transaction_sequence.md R107). -/
opaque Config.freeAnswer : Nat → Frame

end Sys2Proof
end

