-- ==== Sys2Proof/Syntax.lean ====
section
/-! DEFINITION. The instruction set (spec 00_scope.md R2, 30_encoding.md R64), the frame's fields (R62), the bus response (R60)
and the lines of the spec's program text (R68). -/

namespace Sys2Proof

/-- The four forms of `read`, one constructor per row of the opcode table (30_encoding.md R64). They have no operands:
"The `READ` mnemonics take no operands" (R68). -/
inductive Instr where
  /-- `READ.SINGLE`, 40_read_operations.md R81. -/
  | readSingle
  /-- `READ.SINGLERAW`, 40_read_operations.md R82. -/
  | readSingleRaw
  /-- `READ.PAIR`, 40_read_operations.md R83. -/
  | readPair
  /-- `READ.PAIRRAW`, 40_read_operations.md R84. -/
  | readPairRaw
deriving DecidableEq, Repr

/-- The option `raw` of a form (30_encoding.md R61, R64). -/
def Instr.raw : Instr → Bool
  | .readSingle => false
  | .readSingleRaw => true
  | .readPair => false
  | .readPairRaw => true

/-- The option `return_internal` of a form (30_encoding.md R61, R64). -/
def Instr.returnInternal : Instr → Bool
  | .readSingle => false
  | .readSingleRaw => false
  | .readPair => true
  | .readPairRaw => true

/-- The bus response of one `read`: "either `Ok(b0, b1, b2, b3)` (four bytes) or `Err(e)`" (40_read_operations.md R80);
`b0` goes to `B[0]` (41_transaction_sequence.md R101). -/
inductive BusResponse where
  | ok (b0 b1 b2 b3 : Byte)
  | err (e : TransportFault)
deriving DecidableEq, Repr

/-- The fields of format F, most significant first (30_encoding.md R62, 10_state.md R22). -/
structure FrameFields where
  /-- `TC`, bits 31:18. -/
  tc : BitVec 14
  /-- The unnamed bit 17. -/
  unnamed17 : Bool
  /-- `FAULT`, bit 16. -/
  fault : Bool
  /-- `INT`, bits 15:4. -/
  int : BitVec 12
  /-- The unnamed bit 3. -/
  unnamed3 : Bool
  /-- `SCV`, bit 2. -/
  scv : Bool
  /-- `SCG`, bit 1. -/
  scg : Bool
  /-- `OC`, bit 0. -/
  oc : Bool
deriving DecidableEq, Repr

/-- One call of the host: the `CMD` value it writes together with the start of a `read` (10_state.md R23) and the bus
response of that `read`, a pair of the host's list (70_reset_and_hazards.md R194). -/
structure HostCall where
  cmd : Cmd
  resp : BusResponse
deriving DecidableEq, Repr

/-- One line of the spec's program text (30_encoding.md R68). The line `BUS ERR` does not
show the error value, which is a draw (U12). -/
inductive AsmLine where
  /-- `BUS hh hh hh hh`: four bytes, `B[0]` first. -/
  | busOk (b0 b1 b2 b3 : Byte)
  /-- `BUS ERR`. -/
  | busErr
  /-- `READ.SINGLE` and its three fellows. -/
  | read (i : Instr)
deriving DecidableEq, Repr

end Sys2Proof
end

