-- ==== Sys2Proof/WellFormed.lean ====
section
/-! DEFINITION. Which instructions a block admits and which program texts are programs. -/

namespace Sys2Proof

/-- A form is admitted by a block when the block has what the form needs: the scaled forms (`RAW` = 0) need the converter
(30_encoding.md R66; the opcode table's "requires"), the raw forms are "available whatever `HAS_FLOAT` is". -/
def Instr.wellFormedOn (hasFloat : Bool) (i : Instr) : Bool :=
  i.raw || hasFloat

/-- The check for the block of the spec (`HAS_FLOAT` as in 00_scope.md R4). -/
def Instr.wellFormed (i : Instr) : Bool :=
  i.wellFormedOn Config.hasFloat

/-- "Each `READ` consumes exactly one `BUS` line" (30_encoding.md R68): a program is a list of `BUS` lines each followed by
its `READ`. DESIGN CHOICE (log entry 19): a second `BUS` line before one `READ`, and a `BUS` line with no `READ` after it, on which the
spec says nothing, make the text no program. -/
def programWellFormed : List AsmLine → Bool
  | [] => true
  | .busOk .. :: .read i :: rest => i.wellFormed && programWellFormed rest
  | .busErr :: .read i :: rest => i.wellFormed && programWellFormed rest
  | _ :: _ => false

end Sys2Proof
end

