-- ==== Sys2Proof/Decode.lean ====
section
/-! DEFINITION. The decoder and encoder of the command word (format C), of the frame (format F), and of the spec's program text
(spec 30_encoding.md R61, R62, R64, R68, R69). -/

namespace Sys2Proof

/-! ### Format C: the command word -/

/-- The form a command word selects; "All four values of `CMD` are legal" (30_encoding.md R61, R64). -/
def decodeCmd (c : Cmd) : Instr :=
  if c = 0b00#2 then .readSingle
  else if c = 0b10#2 then .readSingleRaw
  else if c = 0b01#2 then .readPair
  else .readPairRaw

/-- The command word of a call with the two options: `CMD[1]` = `RAW`, `CMD[0]` = `RETURN_INTERNAL` (30_encoding.md R61). -/
def commandWord (returnInternal raw : Bool) : Cmd :=
  BitVec.ofBool raw ++ BitVec.ofBool returnInternal

/-- The command word of a form (30_encoding.md R64). -/
def encodeCmd : Instr → Cmd
  | .readSingle => 0b00#2
  | .readSingleRaw => 0b10#2
  | .readPair => 0b01#2
  | .readPairRaw => 0b11#2

/-- Why the byte decoder refuses. -/
inductive DecodeError where
  /-- There is no byte to read. -/
  | noByte
  /-- The byte has a bit set above bit 1: the command word "is always 2 bits" (30_encoding.md R67), so the byte holds none.
  DESIGN CHOICE (log entry 1). -/
  | notACommandWord (b : Byte)
deriving DecidableEq, Repr

/-- The decoder on bytes, total: one byte holds one command word in its bits 1:0 (log entry 1). It answers the instruction
and the bytes after it. -/
def decode : List Byte → Except DecodeError (Instr × List Byte)
  | [] => .error .noByte
  | b :: rest =>
    if b.extractLsb' 2 6 = 0#6 then .ok (decodeCmd (b.extractLsb' 0 2), rest)
    else .error (.notACommandWord b)

/-- The byte of an instruction: its command word in bits 1:0, zeros above (log entry 1). -/
def encode (i : Instr) : List Byte :=
  [0#6 ++ encodeCmd i]

/-- The `n` bytes of an opcode-table word, its least significant byte first. -/
def tableBytes : (n w : Nat) → List Byte
  | 0, _ => []
  | n + 1, w => BitVec.ofNat 8 w :: tableBytes n (w / 256)

/-- The instruction the decoder reads from a word of the opcode table of `nbits` bits. -/
def decodeTableWord (nbits w : Nat) : Option Instr :=
  match decode (tableBytes ((nbits + 7) / 8) w) with
  | .ok (i, _) => some i
  | .error _ => none

/-! ### Format F: the frame -/

/-- The fields of a frame (30_encoding.md R62). -/
def decodeFrame (w : Frame) : FrameFields where
  tc := w.extractLsb' 18 14
  unnamed17 := w.getLsbD 17
  fault := w.getLsbD 16
  int := w.extractLsb' 4 12
  unnamed3 := w.getLsbD 3
  scv := w.getLsbD 2
  scg := w.getLsbD 1
  oc := w.getLsbD 0

/-- The frame of given fields: the pattern `tttttttt tttttt-F iiiiiiii iiii-VGO`, most significant bit first
(30_encoding.md R62). -/
def encodeFrame (f : FrameFields) : Frame :=
  f.tc ++ BitVec.ofBool f.unnamed17 ++ BitVec.ofBool f.fault ++ f.int ++ BitVec.ofBool f.unnamed3
    ++ BitVec.ofBool f.scv ++ BitVec.ofBool f.scg ++ BitVec.ofBool f.oc

/-- The bus response that carries a frame, byte `B[0]` first: `B[k] = FRAME[31-8k : 24-8k]` (00_scope.md R5). -/
def responseOfFrame (w : Frame) : BusResponse :=
  .ok (w.extractLsb' 24 8) (w.extractLsb' 16 8) (w.extractLsb' 8 8) (w.extractLsb' 0 8)

/-! ### The program text -/

/-- The mnemonic of a form (30_encoding.md R64). -/
def mnemonicOf : Instr → List Char
  | .readSingle => "READ.SINGLE".toList
  | .readSingleRaw => "READ.SINGLERAW".toList
  | .readPair => "READ.PAIR".toList
  | .readPairRaw => "READ.PAIRRAW".toList

/-- The form a mnemonic names; the pseudo-instruction `READ` is `READ.SINGLE` (30_encoding.md R69). -/
def parseMnemonic (w : List Char) : Option Instr :=
  if w = "READ".toList then some .readSingle
  else if w = mnemonicOf .readSingle then some .readSingle
  else if w = mnemonicOf .readSingleRaw then some .readSingleRaw
  else if w = mnemonicOf .readPair then some .readPair
  else if w = mnemonicOf .readPairRaw then some .readPairRaw
  else none

/-- A hexadecimal digit, either case (log entry 19). -/
def hexDigit (c : Char) : Option (BitVec 4) :=
  let n := c.toNat
  if 48 ≤ n ∧ n ≤ 57 then some (BitVec.ofNat 4 (n - 48))
  else if 65 ≤ n ∧ n ≤ 70 then some (BitVec.ofNat 4 (n - 55))
  else if 97 ≤ n ∧ n ≤ 102 then some (BitVec.ofNat 4 (n - 87))
  else none

/-- The digit of a nibble, as the spec writes it. -/
def hexChar (d : BitVec 4) : Char :=
  if d.toNat < 10 then Char.ofNat (48 + d.toNat) else Char.ofNat (55 + d.toNat)

/-- The byte of a two-digit word (`hh` of 30_encoding.md R68). -/
def parseByte : List Char → Option Byte
  | [hi, lo] =>
    match hexDigit hi, hexDigit lo with
    | some h, some l => some (h ++ l)
    | _, _ => none
  | _ => none

/-- A byte as two digits. -/
def printByte (b : Byte) : List Char :=
  [hexChar (b.extractLsb' 4 4), hexChar (b.extractLsb' 0 4)]

/-- Why a line is no statement. -/
inductive AsmError where
  /-- The line's words are no statement of 30_encoding.md R68. -/
  | unknownStatement
deriving DecidableEq, Repr

/-- The words of a text, which blanks separate (log entry 19); `cur` is the word being read. -/
def splitWords (cur : List Char) : List Char → List (List Char)
  | [] => if cur = [] then [] else [cur]
  | c :: cs =>
    if c = ' ' ∨ c = '\t' then
      if cur = [] then splitWords [] cs else cur :: splitWords [] cs
    else splitWords (cur ++ [c]) cs

/-- The part of a line before its comment: "text from `;` to the end of the line is a comment" (30_encoding.md R68). -/
def stripComment (line : List Char) : List Char :=
  line.takeWhile (fun c => c != ';')

/-- The statement of a line's words; `none` for a line without one. -/
def parseWords : List (List Char) → Except AsmError (Option AsmLine)
  | [] => .ok none
  | [w] =>
    match parseMnemonic w with
    | some i => .ok (some (.read i))
    | none => .error .unknownStatement
  | [w, e] => if w = "BUS".toList ∧ e = "ERR".toList then .ok (some .busErr) else .error .unknownStatement
  | [w, a, b, c, d] =>
    if w = "BUS".toList then
      match parseByte a, parseByte b, parseByte c, parseByte d with
      | some b0, some b1, some b2, some b3 => .ok (some (.busOk b0 b1 b2 b3))
      | _, _, _, _ => .error .unknownStatement
    else .error .unknownStatement
  | _ => .error .unknownStatement

/-- One line of program text, "one statement per line" (30_encoding.md R68). -/
def parseLine (line : List Char) : Except AsmError (Option AsmLine) :=
  parseWords (splitWords [] (stripComment line))

/-- A statement as the spec writes it. -/
def printLine : AsmLine → List Char
  | .busOk b0 b1 b2 b3 =>
    "BUS ".toList ++ printByte b0 ++ [' '] ++ printByte b1 ++ [' '] ++ printByte b2 ++ [' '] ++ printByte b3
  | .busErr => "BUS ERR".toList
  | .read i => mnemonicOf i

/-- A text of several lines; lines without a statement are passed over. -/
def parseProgram : List (List Char) → Except AsmError (List AsmLine)
  | [] => .ok []
  | line :: lines =>
    match parseLine line, parseProgram lines with
    | .ok none, .ok stmts => .ok stmts
    | .ok (some a), .ok stmts => .ok (a :: stmts)
    | .error e, _ => .error e
    | _, .error e => .error e

/-- The host's calls of a program: one per `READ`, each with the response of its `BUS` line (30_encoding.md R68).
`errs k` is the error value of the `k`-th call if its line is `BUS ERR`; `none` for a text that is no program.
DESIGN CHOICE (log entry 19): a second `BUS` line before one `READ`, and a `BUS` line with no `READ` after it, on which the spec says
nothing, make the text no program. -/
def assembleFrom (errs : Nat → TransportFault) (k : Nat) : List AsmLine → Option (List HostCall)
  | [] => some []
  | .busOk b0 b1 b2 b3 :: .read i :: rest =>
    (assembleFrom errs (k + 1) rest).map (fun calls => ⟨encodeCmd i, .ok b0 b1 b2 b3⟩ :: calls)
  | .busErr :: .read i :: rest =>
    (assembleFrom errs (k + 1) rest).map (fun calls => ⟨encodeCmd i, .err (errs k)⟩ :: calls)
  | _ :: _ => none

/-- The host's calls of a whole program. -/
def assemble (errs : Nat → TransportFault) (lines : List AsmLine) : Option (List HostCall) :=
  assembleFrom errs 0 lines

/-- The `BUS` line of a response. -/
def busLine : BusResponse → AsmLine
  | .ok b0 b1 b2 b3 => .busOk b0 b1 b2 b3
  | .err _ => .busErr

/-- The program text of a list of calls. -/
def disassemble : List HostCall → List AsmLine
  | [] => []
  | c :: calls => busLine c.resp :: .read (decodeCmd c.cmd) :: disassemble calls

end Sys2Proof
end

