-- ==== Sys2Proof/Machine/State.lean ====
section
/-! DEFINITION. The state of the block and of its environment (spec 10_state.md R20 to R33), the error kinds (60_exceptions.md R160)
and the reasons a step or a host access can stop. -/

namespace Sys2Proof.Machine

/-- A level of the chip-select line: `low` is asserted, `high` deasserted (10_state.md R30). -/
inductive Level where
  | low
  | high
deriving DecidableEq, Repr

/-- The events a `read` appends to `TRACE`; "The events carry no data" (41_transaction_sequence.md R105). -/
inductive Event where
  | csLow
  | xfer
  | csHigh
deriving DecidableEq, Repr

/-- The five error kinds (60_exceptions.md R160). -/
inductive ErrorKind where
  /-- Code 1: the transfer succeeded and `FRAME[0]` = 1. -/
  | openCircuit
  /-- Code 2: `FRAME[0]` = 0 and `FRAME[1]` = 1. -/
  | shortToGround
  /-- Code 3: `FRAME[1:0]` = 00 and `FRAME[2]` = 1. -/
  | shortToPower
  /-- Code 4: `FRAME[2:0]` = 000 and `FRAME[16]` = 1. -/
  | faultyReading
  /-- Code 5: the transfer failed, and `e` is "the collaborator's error value". -/
  | transportError (e : TransportFault)
deriving DecidableEq, Repr

/-- The result registers (10_state.md R24, R25). -/
inductive ResultReg where
  /-- `x[0]`, alias `TC_RAW`. -/
  | x0
  /-- `x[1]`, alias `INT_RAW`. -/
  | x1
  /-- `f[0]`, alias `TC_C`. -/
  | f0
  /-- `f[1]`, alias `INT_C`. -/
  | f1
deriving DecidableEq, Repr

/-- The content of the frame buffer: the bytes listed by address, addresses strictly rising (`Memory.wf`). -/
abbrev Memory := List Host.Cell

/-- The state. `buf`, `cmd`, `x0`, `x1`, `f0`, `f1`, `status` are the block's, `cs` and `trace` the environment's (10_state.md R20);
the last four fields are the MODEL'S OWN inputs, output and draw counter (log entries 2 to 5). -/
structure State where
  /-- `FRAME`, the same storage as `B[0..3]` (10_state.md R21, 20_memory.md R40). -/
  buf : Memory
  /-- `CMD` (10_state.md R23). -/
  cmd : Cmd
  /-- `x[0]`, or `none` (10_state.md R24, R27). -/
  x0 : Option Word
  /-- `x[1]`, or `none` (10_state.md R24, R27). -/
  x1 : Option Word
  /-- `f[0]`, or `none` (10_state.md R25, R27). -/
  f0 : Option F64
  /-- `f[1]`, or `none` (10_state.md R25, R27). -/
  f1 : Option F64
  /-- `STATUS` (10_state.md R26). -/
  status : StatusWord
  /-- `CS` (10_state.md R30). -/
  cs : Level
  /-- `TRACE`, oldest event first (10_state.md R30). -/
  trace : List Event
  /-- The model's own: the value handed to the host with the last `read`'s `TransportError` (60_exceptions.md R163 (d); log entry 5). -/
  errValue : Option TransportFault
  /-- The model's own: the response fixed for the next transfer, `none` when nothing fixes it (30_encoding.md R68; log entry 3). -/
  bus : Option BusResponse
  /-- The model's own: the host's calls to come (70_reset_and_hazards.md R194; log entry 2). -/
  program : List HostCall
  /-- The model's own: the number of transfers made, index of the free values (log entry 4). -/
  draws : Nat
deriving DecidableEq, Repr

/-- Why a machine stops with a fault. No form of `read` raises one; each is the spec's "model fault" or an access it leaves undefined. -/
inductive Fault where
  /-- An access to the buffer outside the addresses 0 to 3, which 20_memory.md R42 does not define. Raised by the memory
  operations; no `read` forms such an address (R44). Safe. -/
  | noSuchAddress (addr : Nat)
  /-- A read of a buffer byte that holds no value, after reset and before the first transfer (10_state.md R33). Raised by the
  memory operations; no `read` reads before its transfer has written (20_memory.md R45). Safe. -/
  | unwrittenByte (addr : Nat)
  /-- A host read of a result register that holds `none` (10_state.md R27: "a model fault"). Raised by the host's register reads. Safe. -/
  | registerHoldsNone (r : ResultReg)
deriving DecidableEq, Repr

/-- Why a machine refuses. -/
inductive Refusal where
  /-- The instruction has no meaning yet; raised by `exec`'s arms only (none at present). Safe. -/
  | notModelled (mnemonic : String)
  /-- A form with `RAW` = 0 on a block without the float converter (30_encoding.md R66: "a model refuses them"). Raised by the
  scaled forms when `HAS_FLOAT` is false. Safe. -/
  | noFloatConverter (cmd : Cmd)
  /-- A host read of `f[0]` or `f[1]` on a block without the converter, where "the registers do not exist" (10_state.md R25).
  Raised by the host's register reads. Safe. -/
  | registerAbsent (r : ResultReg)
deriving DecidableEq, Repr

/-- The state after reset (10_state.md R33). `FRAME` is unspecified there and holds `none` here (log entry 7); the model's own
fields are empty (log entries 2 to 5). -/
def State.reset : State where
  buf := []
  cmd := 0b00#2
  x0 := none
  x1 := none
  f0 := none
  f1 := none
  status := 0#6
  cs := .high
  trace := []
  errValue := none
  bus := none
  program := []
  draws := 0

end Sys2Proof.Machine
end

