-- ==== Sys2Proof/Machine/Status.lean ====
section
/-! DEFINITION. The fields of `STATUS` (spec 10_state.md R26) and the codes of the error kinds (60_exceptions.md R160). -/

namespace Sys2Proof.Machine

/-- `STATUS.CODE`, bits 2:0. -/
def statusCode (w : StatusWord) : BitVec 3 := w.extractLsb' 0 3

/-- `STATUS.DONE`, bit 3. -/
def statusDone (w : StatusWord) : Bool := w.getLsbD 3

/-- `STATUS.SHAPE`, bits 5:4. -/
def statusShape (w : StatusWord) : Cmd := w.extractLsb' 4 2

/-- The register of given fields, `SHAPE` in the high bits, then `DONE`, then `CODE` (10_state.md R26). -/
def packStatus (shape : Cmd) (done : Bool) (code : BitVec 3) : StatusWord :=
  shape ++ BitVec.ofBool done ++ code

/-- A write of `CODE`; the other fields stay. -/
def withCode (w : StatusWord) (code : BitVec 3) : StatusWord :=
  packStatus (statusShape w) (statusDone w) code

/-- The writes at the start of a `read`: `STATUS.SHAPE <- CMD; STATUS.DONE <- 1` (40_read_operations.md R80). -/
def withStart (w : StatusWord) (cmd : Cmd) : StatusWord :=
  packStatus cmd true (statusCode w)

/-- The code of success (10_state.md R26: "0 = `Ok`"). -/
def codeOk : BitVec 3 := 0#3

/-- The code of an error kind (60_exceptions.md R160). -/
def errorCode : ErrorKind → BitVec 3
  | .openCircuit => 1#3
  | .shortToGround => 2#3
  | .shortToPower => 3#3
  | .faultyReading => 4#3
  | .transportError _ => 5#3

/-- The value an error kind hands to the host; only `TransportError` has one (60_exceptions.md R160). -/
def handedValue : ErrorKind → Option TransportFault
  | .openCircuit => none
  | .shortToGround => none
  | .shortToPower => none
  | .faultyReading => none
  | .transportError e => some e

end Sys2Proof.Machine
end

