-- ==== Sys2Proof/Machine/Ops.lean ====
section
/-! DEFINITION. The named operations over the buffer, the result registers, `STATUS`, `CS` and `TRACE` that every form shares:
memory access (spec 20_memory.md R42), the transaction (41_transaction_sequence.md R100 to R104), the start of a `read`
(40_read_operations.md R80, R89) and the raising of an error (60_exceptions.md R163). -/

namespace Sys2Proof.Machine

/-- What an operation that may stop answers: a value, a fault or a refusal. -/
abbrev Access (α : Type) := Host.Outcome α Fault Refusal

/-- Go on with the value an operation answers; a stop stays that stop. -/
def andThen {α β : Type} (a : Access α) (k : α → Access β) : Access β :=
  match a with
  | .next v => k v
  | .fault r => .fault r
  | .refused r => .refused r

/-! ### The buffer (20_memory.md R40 to R47) -/

/-- What an address with no listed byte reads as: no value. After reset `FRAME` is unspecified and "a model takes it as a free
input or as `none`" (10_state.md R33; log entry 7). -/
def unlistedByte (_addr : Nat) : Option Byte := none

/-- The canonical form: addresses strictly rising, all inside the buffer, no entry equal to what an unlisted address reads as. -/
def Memory.wf (m : Memory) : Bool :=
  decide (m.Pairwise fun a b => a.1 < b.1)
    && m.all fun c => decide (c.1 < Config.frameBytes) && (unlistedByte c.1 != some c.2)

/-- The byte an address holds, if any. -/
def lookupByte : Memory → Nat → Option Byte
  | [], a => unlistedByte a
  | (k, b) :: m, a => if k = a then some b else lookupByte m a

/-- The memory with one more byte, at its place in the order. Every byte differs from what an unlisted address reads as (no
value), so a write never removes an entry. -/
def insertByte : Memory → Nat → Byte → Memory
  | [], a, b => [(a, b)]
  | (k, c) :: m, a, b =>
    if a < k then (a, b) :: (k, c) :: m
    else if a = k then (a, b) :: m
    else (k, c) :: insertByte m a b

/-- A read of `B[addr]`; defined for the addresses 0 to 3 only (20_memory.md R41, R42). -/
def readByte (m : Memory) (addr : Nat) : Access Byte :=
  if addr < Config.frameBytes then
    match lookupByte m addr with
    | some b => .next b
    | none => .fault (.unwrittenByte addr)
  else .fault (.noSuchAddress addr)

/-- A write of `B[addr]`; defined for the addresses 0 to 3 only (20_memory.md R41, R42). -/
def writeByte (m : Memory) (addr : Nat) (b : Byte) : Access Memory :=
  if addr < Config.frameBytes then .next (insertByte m addr b) else .fault (.noSuchAddress addr)

/-- `MemRead(addr, n)`: `B[addr] ++ B[addr+1] ++ ... ++ B[addr+n-1]`, big-endian (20_memory.md R42). -/
def memRead (m : Memory) (addr : Nat) : (n : Nat) → Access (BitVec (8 * n))
  | 0 => .next 0#0
  | n + 1 => andThen (memRead m addr n) fun hi => andThen (readByte m (addr + n)) fun lo => .next (hi ++ lo)

/-- `MemWrite(addr, n, v)`: the most significant byte of `v` to `B[addr]`, the least significant to `B[addr+n-1]`
(20_memory.md R42). -/
def memWrite (m : Memory) (addr : Nat) : (n : Nat) → BitVec (8 * n) → Access Memory
  | 0, _ => .next m
  | n + 1, v =>
    andThen (memWrite m addr n (v.extractLsb' 8 (8 * n))) fun m' => writeByte m' (addr + n) (v.extractLsb' 0 8)

/-- `FRAME` as one 32-bit vector: `MemRead(0, 4) = FRAME` (20_memory.md R42). -/
def frameOf (m : Memory) : Access Frame := memRead m 0 4

/-! ### The result registers (10_state.md R24, R25, R27) -/

/-- All four result registers hold `none` (40_read_operations.md R89). -/
def clearResults (s : State) : State := { s with x0 := none, x1 := none, f0 := none, f1 := none }

/-- `x[0] <- v`. -/
def setX0 (v : Word) (s : State) : State := { s with x0 := some v }

/-- `x[1] <- v`. -/
def setX1 (v : Word) (s : State) : State := { s with x1 := some v }

/-- `f[0] <- v`. -/
def setF0 (v : F64) (s : State) : State := { s with f0 := some v }

/-- `f[1] <- v`. -/
def setF1 (v : F64) (s : State) : State := { s with f1 := some v }

/-! ### The start and the end of a `read` -/

/-- The first two lines of the sequence: `STATUS.SHAPE <- CMD; STATUS.DONE <- 1`, and the result registers to `none`
(40_read_operations.md R80). The value handed with an earlier error is gone too (log entry 5). -/
def beginRead (cmd : Cmd) (s : State) : State :=
  { clearResults s with status := withStart s.status cmd, errValue := none }

/-- `STATUS.CODE <- 0` (40_read_operations.md R80). -/
def succeed (s : State) : State := { s with status := withCode s.status codeOk }

/-- `raise K(info)`, the block's taking of an exception (60_exceptions.md R163): (a) `STATUS.CODE` gets the kind's code, `DONE` and
`SHAPE` stay; (b) the result registers stay as they are, which is `none` since the start of the `read`; (d) a `TransportError`
hands its value to the host; nothing else changes, no state is saved, control goes nowhere. There is no return operation
(R165): the `read` is over. -/
def raiseError (k : ErrorKind) (s : State) : State :=
  { s with status := withCode s.status (errorCode k), errValue := handedValue k }

/-! ### The collaborators (41_transaction_sequence.md R100, R101) -/

/-- `set_low()`: `CS <- low` (41_transaction_sequence.md R100). -/
def setLow (s : State) : State := { s with cs := .low }

/-- `set_high()`: `CS <- high` (41_transaction_sequence.md R100). -/
def setHigh (s : State) : State := { s with cs := .high }

/-- One event is appended to `TRACE` (10_state.md R30). -/
def logEvent (e : Event) (s : State) : State := { s with trace := s.trace ++ [e] }

/-- The response of the `n`-th transfer where nothing fixes it: a free value, any frame or any failure
(41_transaction_sequence.md R107; log entry 3). -/
def freeResponse (n : Nat) : BusResponse :=
  match Config.freeFailure n with
  | some e => .err e
  | none => responseOfFrame (Config.freeAnswer n)

/-- The response the next transfer gets. -/
def nextResponse (s : State) : BusResponse := s.bus.getD (freeResponse s.draws)

/-- What a transfer leaves in the buffer: the four bytes answered, `b0` the most significant (41_transaction_sequence.md R104), or
after a failure any value (R103; log entry 4). -/
def transferredFrame (resp : BusResponse) (draw : Nat) : Frame :=
  match resp with
  | .ok b0 b1 b2 b3 => b0 ++ b1 ++ b2 ++ b3
  | .err _ => Config.freeFrame draw

/-- `transfer(buffer)`: one event `Xfer`, one write of all four bytes (access W of 20_memory.md R43). The response is used up. -/
def transfer (resp : BusResponse) (s : State) : Access State :=
  andThen (memWrite s.buf 0 4 (transferredFrame resp s.draws)) fun m =>
    .next { logEvent .xfer s with buf := m, bus := none, draws := s.draws + 1 }

/-- The chip-select bracket: `set_low()`, `transfer(buffer)`, `set_high()`, each once and in this order, the release before any
fault check (41_transaction_sequence.md R102, 90_conflicts.md C6). -/
def transaction (resp : BusResponse) (s : State) : Access State :=
  andThen (transfer resp (logEvent .csLow (setLow s))) fun t => .next (logEvent .csHigh (setHigh t))

end Sys2Proof.Machine
end

