-- ==== Sys2Proof/Machine/Flags.lean ====
section
/-! DEFINITION. The four flags of the frame and the fault check (spec 10_state.md R29, 42_fault_check_and_extract.md R120, R121). -/

namespace Sys2Proof.Machine

/-- The flags, read out of bytes 3 and 1 (20_memory.md R47): `OC = B[3][0]`, `SCG = B[3][1]`, `SCV = B[3][2]`, `FAULT = B[1][0]`. -/
structure FrameFlags where
  oc : Bool
  scg : Bool
  scv : Bool
  fault : Bool
deriving DecidableEq, Repr

/-- The flags of byte 3 and byte 1. -/
def flagsOfBytes (b3 b1 : Byte) : FrameFlags where
  oc := b3.getLsbD 0
  scg := b3.getLsbD 1
  scv := b3.getLsbD 2
  fault := b1.getLsbD 0

/-- The first error kind whose flag is set, in the fixed order `OC`, `SCG`, `SCV`, `FAULT`; `none` is `NoFault`
(42_fault_check_and_extract.md R120). -/
def faultCheck (g : FrameFlags) : Option ErrorKind :=
  if g.oc then some .openCircuit
  else if g.scg then some .shortToGround
  else if g.scv then some .shortToPower
  else if g.fault then some .faultyReading
  else none

/-- The fault check on the buffer: accesses A1 (byte 3) and A2 (byte 1) of 20_memory.md R43. -/
def checkFaults (m : Memory) : Access (Option ErrorKind) :=
  andThen (memRead m 3 1) fun b3 => andThen (memRead m 1 1) fun b1 => .next (faultCheck (flagsOfBytes b3 b1))

/-- `FaultCheck(FRAME)`, the check on the frame as a whole (42_fault_check_and_extract.md R120): `B[3] = FRAME[7:0]`,
`B[1] = FRAME[23:16]` (20_memory.md R42). -/
def faultCheckFrame (w : Frame) : Option ErrorKind :=
  faultCheck (flagsOfBytes (w.extractLsb' 0 8) (w.extractLsb' 16 8))

end Sys2Proof.Machine
end

