-- ==== Sys2Proof/Machine/Operands.lean ====
section
/-! DEFINITION. Operand assembly: the halves, the two extractions, the arithmetic shift and the sign extension
(spec 30_encoding.md R63, 42_fault_check_and_extract.md R122 to R128). -/

namespace Sys2Proof.Machine

/-- `asr(n, k)` = `floor(n / 2^k)`, rounding toward minus infinity (00_scope.md R6, 42_fault_check_and_extract.md R126). -/
def asr (n : Int) (k : Nat) : Int := n / (2 ^ k : Int)

/-- `sint_16(v)`, two's complement (00_scope.md R6, R7). -/
def sint16 (v : Half) : Int := v.toInt

/-- `tobits_32(n)` (00_scope.md R6). -/
def toBits32 (n : Int) : Word := BitVec.ofInt 32 n

/-- `upper = sint_16(MemRead(0, 2))`, access A3 (42_fault_check_and_extract.md R122). -/
def readUpper (m : Memory) : Access Int := andThen (memRead m 0 2) fun h => .next (sint16 h)

/-- `lower = sint_16(MemRead(2, 2))`, access A4 (42_fault_check_and_extract.md R122). -/
def readLower (m : Memory) : Access Int := andThen (memRead m 2 2) fun h => .next (sint16 h)

/-- `ExtractTC`: `tc_raw = asr(upper, 2)` (42_fault_check_and_extract.md R123). -/
def extractTC (upper : Int) : Int := asr upper Config.tcShift

/-- `ExtractINT`: `int_raw = asr(lower, 4)` (42_fault_check_and_extract.md R124). -/
def extractINT (lower : Int) : Int := asr lower Config.intShift

end Sys2Proof.Machine
end

