-- ==== Sys2Proof/Machine/Float.lean ====
section
/-! DEFINITION. The optional fixed-point-to-float converter (spec 43_float_conversion.md R140 to R148), on binary64 patterns. The layout of
binary64 is the spec's general knowledge G3 (log entry 17). -/

namespace Sys2Proof.Machine

/-- `p`, "the index of the highest set bit of m" (43_float_conversion.md R146). -/
def highestBit (m : Nat) : Nat := m.log2

/-- `FloatBits(n, k)`: the pattern of the binary64 value `n / 2^k` (43_float_conversion.md R146), for `|n| <= 8192`, `k` = 2 or 4. -/
def floatBits (n : Int) (k : Nat) : F64 :=
  if n = 0 then 0#64
  else
    let m := n.natAbs
    let p := highestBit m
    let s := if n < 0 then 1 else 0
    let e := 1023 + p - k
    let t := (m - 2 ^ p) * 2 ^ (52 - p)
    BitVec.ofNat 64 (s * 2 ^ 63 + e * 2 ^ 52 + t)

/-- `tofloat(n)`: the binary64 value equal to the integer (00_scope.md R6, 43_float_conversion.md R144). -/
def toFloat (n : Int) : F64 := floatBits n 0

/-- `ScaleTC(tc_raw)`: the float equal to `tc_raw / 4`, `f[0] <- FloatBits(tc_raw, 2)` (43_float_conversion.md R141, R146). -/
def scaleTC (n : Int) : F64 := floatBits n 2

/-- `ScaleINT(int_raw)`: the float equal to `int_raw / 16`, `f[1] <- FloatBits(int_raw, 4)` (43_float_conversion.md R142, R146). -/
def scaleINT (n : Int) : F64 := floatBits n 4

/-- The "exponent adjustment" of 43_float_conversion.md R148: a normal value divided by `2^k` by lowering its biased exponent; a zero stays. -/
def lowerExponent (v : F64) (k : Nat) : F64 :=
  if v.extractLsb' 0 63 = 0#63 then v else v - (BitVec.ofNat 64 k <<< 52)

end Sys2Proof.Machine
end

