-- ==== Sys2Proof/Machine/Read.lean ====
section
/-! DEFINITION. The operation `read` and its four forms (spec 40_read_operations.md R80 to R84). -/

namespace Sys2Proof.Machine

/-- The decode of a loaded frame (steps 3 to 6 of 40_read_operations.md R80): the fault check; on a fault the `raise`, and nothing
is extracted (42_fault_check_and_extract.md R121); otherwise the halves, the extractions, `STATUS.CODE <- 0` and the form's own
writes, `deliver tc_raw int_raw`. -/
def decodeFrameInto (deliver : Int → Int → State → State) (s : State) : Access State :=
  andThen (checkFaults s.buf) fun fault =>
    match fault with
    | some k => .next (raiseError k s)
    | none =>
      andThen (readUpper s.buf) fun upper =>
        andThen (readLower s.buf) fun lower =>
          .next (deliver (extractTC upper) (extractINT lower) (succeed s))

/-- `Read(CMD, resp)` (40_read_operations.md R80): the start, the bracketed transfer, `TransportError` on a failed transfer without any
decode (41_transaction_sequence.md R103), else the decode. -/
def runRead (cmd : Cmd) (deliver : Int → Int → State → State) (s : State) : Access State :=
  let resp := nextResponse s
  andThen (transaction resp (beginRead cmd s)) fun t =>
    match resp with
    | .err e => .next (raiseError (.transportError e) t)
    | .ok _ _ _ _ => decodeFrameInto deliver t

/-- A form with `RAW` = 0 needs the converter; without it a model refuses the form, "no step" (30_encoding.md R66). -/
def needsConverter (hasFloat : Bool) (cmd : Cmd) (run : State → Access State) (s : State) : Access State :=
  if hasFloat then run s else .refused (.noFloatConverter cmd)

/-- The case `00` of R80: `f[0] <- ScaleTC(tc_raw)`. -/
def deliverSingle (tc _int : Int) (s : State) : State := setF0 (scaleTC tc) s

/-- The case `10` of R80: `x[0] <- tobits_32(tc_raw)`. -/
def deliverSingleRaw (tc _int : Int) (s : State) : State := setX0 (toBits32 tc) s

/-- The case `01` of R80: `f[0] <- ScaleTC(tc_raw); f[1] <- ScaleINT(int_raw)`. -/
def deliverPair (tc int : Int) (s : State) : State := setF1 (scaleINT int) (setF0 (scaleTC tc) s)

/-- The case `11` of R80: `x[0] <- tobits_32(tc_raw); x[1] <- tobits_32(int_raw)`. -/
def deliverPairRaw (tc int : Int) (s : State) : State := setX1 (toBits32 int) (setX0 (toBits32 tc) s)

/-- `READ.SINGLE` on a block with or without the converter (40_read_operations.md R81). -/
def readSingleOn (hasFloat : Bool) (s : State) : Access State :=
  needsConverter hasFloat 0b00#2 (runRead 0b00#2 deliverSingle) s

/-- `READ.PAIR` on a block with or without the converter (40_read_operations.md R83). -/
def readPairOn (hasFloat : Bool) (s : State) : Access State :=
  needsConverter hasFloat 0b01#2 (runRead 0b01#2 deliverPair) s

/-- `READ.SINGLE` (40_read_operations.md R81). -/
def execReadSingle (s : State) : Access State := readSingleOn Config.hasFloat s

/-- `READ.SINGLERAW` (40_read_operations.md R82), "available whatever `HAS_FLOAT` is". -/
def execReadSingleRaw (s : State) : Access State := runRead 0b10#2 deliverSingleRaw s

/-- `READ.PAIR` (40_read_operations.md R83). -/
def execReadPair (s : State) : Access State := readPairOn Config.hasFloat s

/-- `READ.PAIRRAW` (40_read_operations.md R84), "available whatever `HAS_FLOAT` is". -/
def execReadPairRaw (s : State) : Access State := runRead 0b11#2 deliverPairRaw s

/-- Every form on a block with or without the converter (log entry 11). -/
def execOn (hasFloat : Bool) (i : Instr) (s : State) : Access State :=
  match i with
  | .readSingle => readSingleOn hasFloat s
  | .readSingleRaw => execReadSingleRaw s
  | .readPair => readPairOn hasFloat s
  | .readPairRaw => execReadPairRaw s

end Sys2Proof.Machine
end

