-- ==== Sys2Proof/Machine/Dispatch.lean ====
section
/-! DEFINITION. One arm per form of `read` (spec 30_encoding.md R64). -/

namespace Sys2Proof.Machine

/-- The meaning of each instruction. -/
def exec (i : Instr) (s : State) : Host.Outcome State Fault Refusal :=
  match i with
  | .readSingle => Sys2Proof.Machine.execReadSingle s
  | .readSingleRaw => Sys2Proof.Machine.execReadSingleRaw s
  | .readPair => Sys2Proof.Machine.execReadPair s
  | .readPairRaw => Sys2Proof.Machine.execReadPairRaw s

end Sys2Proof.Machine
end

