-- ==== Sys2Proof/Machine/HostPort.lean ====
section
/-! DEFINITION. What the host does to the block and gets from it (spec 41_transaction_sequence.md R109, 40_read_operations.md R88): the start
of a `read`, the write of `CMD`, the reads of `x`, `f` and `STATUS`, the tagged result, and initialisation
(70_reset_and_hazards.md R190). The host has no access to `FRAME` (10_state.md R21), so there is none here. -/

namespace Sys2Proof.Machine

/-- The host's write of `CMD` (10_state.md R23). -/
def hostWriteCmd (c : Cmd) (s : State) : State := { s with cmd := c }

/-- The host starts a `read` without writing `CMD`, no other call being pending: the block will sample `CMD` as it stands, which is
`READ.SINGLE` after reset (10_state.md R33, 70_reset_and_hazards.md R191 (4)). -/
def hostStartRead (resp : BusResponse) (s : State) : State := { s with program := s.program ++ [⟨s.cmd, resp⟩] }

/-- The document's call `read(return_internal, raw)` (30_encoding.md R68, R69). -/
def hostCallRead (returnInternal raw : Bool) (resp : BusResponse) (s : State) : State :=
  { s with program := s.program ++ [⟨commandWord returnInternal raw, resp⟩] }

/-- A host read of a register: its value, or a model fault when it holds `none` (10_state.md R27). -/
def readHeld {α : Type} (r : ResultReg) (v : Option α) : Access α :=
  match v with
  | some a => .next a
  | none => .fault (.registerHoldsNone r)

/-- A host read of `x[0]` (10_state.md R24). -/
def hostReadX0 (s : State) : Access Word := readHeld .x0 s.x0

/-- A host read of `x[1]` (10_state.md R24). -/
def hostReadX1 (s : State) : Access Word := readHeld .x1 s.x1

/-- A host read of a float register; without the converter "the registers do not exist" (10_state.md R25). -/
def hostReadFloatOn (hasFloat : Bool) (r : ResultReg) (v : Option F64) : Access F64 :=
  if hasFloat then readHeld r v else .refused (.registerAbsent r)

/-- A host read of `f[0]` (10_state.md R25). -/
def hostReadF0 (s : State) : Access F64 := hostReadFloatOn Config.hasFloat .f0 s.f0

/-- A host read of `f[1]` (10_state.md R25). -/
def hostReadF1 (s : State) : Access F64 := hostReadFloatOn Config.hasFloat .f1 s.f1

/-- A host read of `STATUS`, always defined (10_state.md R26). -/
def hostReadStatus (s : State) : StatusWord := s.status

/-- The document's result type: "an enum with variants `Single(f64)`, `SingleRaw(i32)`, `Pair(f64, f64)`, `PairRaw(i32, i32)`"
(40_read_operations.md R89). -/
inductive Reading where
  | single (tc : F64)
  | singleRaw (tc : Word)
  | pair (tc int : F64)
  | pairRaw (tc int : Word)
deriving DecidableEq, Repr

/-- What one `read` gives its caller, `Result<Reading, ReadError>` (30_encoding.md R68). -/
inductive ReadResult where
  | reading (r : Reading)
  | error (k : ErrorKind)
deriving DecidableEq, Repr

/-- The reading the result registers hold for a shape; the other registers "are not part of the value" (40_read_operations.md R89). -/
def readingOfShape (shape : Cmd) (s : State) : Option Reading :=
  match decodeCmd shape with
  | .readSingle => s.f0.map .single
  | .readSingleRaw => s.x0.map .singleRaw
  | .readPair => s.f0.bind fun tc => s.f1.map fun int => .pair tc int
  | .readPairRaw => s.x0.bind fun tc => s.x1.map fun int => .pairRaw tc int

/-- The error kind a code reports; "the host tells the kinds apart by the code" (60_exceptions.md R164). The value of a
`TransportError` is the one handed over (R163 (d)). -/
def errorOfCode (code : BitVec 3) (handed : Option TransportFault) : Option ErrorKind :=
  if code = 1#3 then some .openCircuit
  else if code = 2#3 then some .shortToGround
  else if code = 3#3 then some .shortToPower
  else if code = 4#3 then some .faultyReading
  else if code = 5#3 then handed.map .transportError
  else none

/-- The host takes the result (41_transaction_sequence.md R109): it looks at `DONE` and `CODE` first, then takes "only the registers of
the shape" (70_reset_and_hazards.md R192 H-e). `none` when no `read` has completed. -/
def hostTakeResult (s : State) : Option ReadResult :=
  if statusDone s.status then
    if statusCode s.status = codeOk then (readingOfShape (statusShape s.status) s).map .reading
    else (errorOfCode (statusCode s.status) s.errValue).map .error
  else none

/-- Initialisation, the block's one reset (70_reset_and_hazards.md R190): every piece of the block's state at its value of
10_state.md R33, `TRACE` empty again ("since reset"), the chip-select line not touched, no transfer, no error. The environment's
inputs stay (log entry 16). -/
def initialise (s : State) : State :=
  { State.reset with cs := s.cs, bus := s.bus, program := s.program, draws := s.draws }

/-- What the step fetches: the host's next call. The host writes `CMD` "together with" the start of the `read`, the block samples it
(10_state.md R23), and the transceiver's answer is the call's (70_reset_and_hazards.md R194; log entry 2). `none` when no call is pending. -/
def fetchCall (s : State) : Option (Instr × State) :=
  match s.program with
  | [] => none
  | c :: rest =>
    let t := hostWriteCmd c.cmd { s with program := rest, bus := some c.resp }
    some (decodeCmd t.cmd, t)

/-- The host's call for a command word whose operand frame is all zeros (log entry 2). -/
def zeroFrameCall (w : Nat) : HostCall := ⟨BitVec.ofNat 2 w, responseOfFrame 0#32⟩

end Sys2Proof.Machine
end

