-- ==== Sys2Proof/Machine/Step.lean ====
section
/-! DEFINITION. One step: the host's next call, run as one atomic `read` (spec 00_scope.md R8, 70_reset_and_hazards.md R194). -/

namespace Sys2Proof.Machine

/-- One step. When no call is pending "the block then waits for the next `read`" (10_state.md R28) and nothing of it changes
(00_scope.md R8; log entry 10). -/
def step (s : State) : Host.Outcome State Fault Refusal :=
  match fetchCall s with
  | none => .next s
  | some (i, t) => exec i t

/-- The state in which the very next step runs the command word `w` with an all-zero operand frame: the call stands at the head of
the host's list (log entry 2). -/
def State.withFetchWord (s : State) (_nbits w : Nat) : State :=
  { s with program := zeroFrameCall w :: s.program }

end Sys2Proof.Machine
end

