-- ==== Sys2Proof/Safety.lean ====
section
/-! DEFINITION. The terms in which claims are stated: what a good state is, what a `read` may touch, the document's `read` as a pure
function of one frame, and the real number a binary64 pattern stands for. -/

namespace Sys2Proof.Machine

/-- The three events of one `read`, in order (41_transaction_sequence.md R105). -/
def bracket : List Event := [.csLow, .xfer, .csHigh]

/-- The trace of `n` reads (41_transaction_sequence.md R105, 70_reset_and_hazards.md R194: "`TRACE` has three events per completed
`read`"). -/
def brackets (n : Nat) : List Event := (List.replicate n bracket).flatten

/-- The "chip-select toggle sequence": the sub-list of `CsLow` and `CsHigh` events (41_transaction_sequence.md R105). -/
def toggles (trace : List Event) : List Event := trace.filter fun e => e != .xfer


/-! ### What one `read` touches -/

/-- What every `read` leaves as it was or changes whatever its outcome: `CMD`, which "the block only reads" (10_state.md R23), and the
host's calls to come are unchanged; `CS` is high and `TRACE` longer by the three events (41_transaction_sequence.md R102, R105); every
buffer address outside the four bytes the transfer stores reads as before (20_memory.md R40, R43); `STATUS.DONE` is set and
`STATUS.SHAPE` holds the form's word (10_state.md R26). The last two clauses are about the model's own fields (log entries 3, 4). -/
structure ReadFrame (cmd : Cmd) (s t : State) : Prop where
  cmd_kept : t.cmd = s.cmd
  program_kept : t.program = s.program
  cs_high : t.cs = .high
  trace_grown : t.trace = s.trace ++ bracket
  memory_kept : ∀ a, 4 ≤ a → readByte t.buf a = readByte s.buf a
  done_set : statusDone t.status = true
  shape_set : statusShape t.status = cmd
  bus_used : t.bus = none
  draw_counted : t.draws = s.draws + 1

/-- The buffer holds the frame `w`: `MemRead(0, 4) = FRAME` (20_memory.md R42). -/
def HoldsFrame (m : Memory) (w : Frame) : Prop := frameOf m = .next w

/-- No result register holds a value (60_exceptions.md R163 (b)). -/
def NoResult (s : State) : Prop := s.x0 = none ∧ s.x1 = none ∧ s.f0 = none ∧ s.f1 = none

/-- Two states show the host the same: the registers it can read and the value handed with an error. -/
def SameReport (s t : State) : Prop :=
  s.x0 = t.x0 ∧ s.x1 = t.x1 ∧ s.f0 = t.f0 ∧ s.f1 = t.f1 ∧ s.status = t.status ∧ s.errValue = t.errValue

/-- What a `read` that raises the kind `k` leaves (60_exceptions.md R163): the code, the flag and the shape; no result; the handed value;
the bracket closed; the rest as every `read` leaves it. -/
def RaisedState (cmd : Cmd) (k : ErrorKind) (s t : State) : Prop :=
  t.status = packStatus cmd true (errorCode k) ∧ NoResult t ∧ t.errValue = handedValue k ∧ ReadFrame cmd s t

/-- What a `read` that decodes the frame `w` leaves beside its results: code 0, no handed value, the frame in the buffer, the rest as
every `read` leaves it (40_read_operations.md R80). -/
def DecodedState (cmd : Cmd) (w : Frame) (s t : State) : Prop :=
  t.status = packStatus cmd true codeOk ∧ t.errValue = none ∧ HoldsFrame t.buf w ∧ ReadFrame cmd s t

/-- A response with its error value renamed. -/
def renameResponse (g : TransportFault → TransportFault) : BusResponse → BusResponse
  | .ok b0 b1 b2 b3 => .ok b0 b1 b2 b3
  | .err e => .err (g e)

/-- A state with every error value in it renamed: the handed one, and those of the responses to come. -/
def renameFaults (g : TransportFault → TransportFault) (s : State) : State :=
  { s with
    errValue := s.errValue.map g
    bus := s.bus.map (renameResponse g)
    program := s.program.map fun c => { c with resp := renameResponse g c.resp } }

/-! ### The invariant -/

/-- Which result registers hold a value, by the outcome (40_read_operations.md R89): none after reset and after any error; exactly those of the
shape after a success. -/
structure ResultsFollowStatus (s : State) : Prop where
  x0_held : s.x0.isSome =
    (statusDone s.status && statusCode s.status == codeOk && (statusShape s.status == 0b10#2 || statusShape s.status == 0b11#2))
  x1_held : s.x1.isSome = (statusDone s.status && statusCode s.status == codeOk && statusShape s.status == 0b11#2)
  f0_held : s.f0.isSome =
    (statusDone s.status && statusCode s.status == codeOk && (statusShape s.status == 0b00#2 || statusShape s.status == 0b01#2))
  f1_held : s.f1.isSome = (statusDone s.status && statusCode s.status == codeOk && statusShape s.status == 0b01#2)

/-- The ranges of the registers that hold a value (10_state.md R24, 43_float_conversion.md R145). -/
structure ResultsInRange (s : State) : Prop where
  x0_range : ∀ v, s.x0 = some v → -8192 ≤ v.toInt ∧ v.toInt ≤ 8191
  x1_range : ∀ v, s.x1 = some v → -2048 ≤ v.toInt ∧ v.toInt ≤ 2047
  f0_range : ∀ v, s.f0 = some v → ∃ n : Int, -8192 ≤ n ∧ n ≤ 8191 ∧ v = scaleTC n
  f1_range : ∀ v, s.f1 = some v → ∃ n : Int, -2048 ≤ n ∧ n ≤ 2047 ∧ v = scaleINT n

/-- A state between two steps (70_reset_and_hazards.md R194: "the block is idle, `CS = high` and `TRACE` has three events per completed
`read`"), with what the register rules say of it. -/
structure Inv (s : State) : Prop where
  buf_wf : Memory.wf s.buf = true
  buf_loaded : statusDone s.status = true → ∃ w, HoldsFrame s.buf w
  cs_high : s.cs = .high
  trace_bracketed : ∃ n, s.trace = brackets n
  done_iff_read : statusDone s.status = !s.trace.isEmpty
  status_before_read : statusDone s.status = false → s.status = 0#6
  code_legal : (statusCode s.status).toNat ≤ 5
  handed_iff : s.errValue.isSome = (statusCode s.status == 5#3)
  results : ResultsFollowStatus s
  ranges : ResultsInRange s

/-! ### The document's `read`, on one frame as a 32-bit vector -/

/-- The signed bit field `TC`: `sint_14(FRAME[31:18])` (42_fault_check_and_extract.md R127). -/
def fieldTC (w : Frame) : Int := (decodeFrame w).tc.toInt

/-- The signed bit field `INT`: `sint_12(FRAME[15:4])` (42_fault_check_and_extract.md R127). -/
def fieldINT (w : Frame) : Int := (decodeFrame w).int.toInt

/-- The reading of a frame without a fault bit, by the two options (30_encoding.md R61, R64). -/
def documentReading (returnInternal raw : Bool) (w : Frame) : Reading :=
  match returnInternal, raw with
  | false, false => .single (scaleTC (fieldTC w))
  | false, true => .singleRaw (toBits32 (fieldTC w))
  | true, false => .pair (scaleTC (fieldTC w)) (scaleINT (fieldINT w))
  | true, true => .pairRaw (toBits32 (fieldTC w)) (toBits32 (fieldINT w))

/-- `read(return_internal, raw)` as a function of the bus response alone (10_state.md R31): the error kinds in the priority of
60_exceptions.md R161, else the reading. It reads bits of the frame as one 32-bit vector; the machine goes byte by byte through its
buffer and shifts halves. -/
def documentRead (returnInternal raw : Bool) : BusResponse → ReadResult
  | .err e => .error (.transportError e)
  | .ok b0 b1 b2 b3 =>
    let w : Frame := b0 ++ b1 ++ b2 ++ b3
    if w.getLsbD 0 then .error .openCircuit
    else if w.getLsbD 1 then .error .shortToGround
    else if w.getLsbD 2 then .error .shortToPower
    else if w.getLsbD 16 then .error .faultyReading
    else .reading (documentReading returnInternal raw w)

/-- The first error kind of a response, in the priority of 60_exceptions.md R161; `none` when it decodes. -/
def errorOf : BusResponse → Option ErrorKind
  | .err e => some (.transportError e)
  | .ok b0 b1 b2 b3 => faultCheckFrame (b0 ++ b1 ++ b2 ++ b3)

/-! ### Binary64 as a number (43_float_conversion.md R143, G3) -/

/-- The biased exponent field, bits 62:52. -/
def expField (v : F64) : Nat := (v.extractLsb' 52 11).toNat

/-- The fraction field, bits 51:0. -/
def fracField (v : F64) : Nat := (v.extractLsb' 0 52).toNat

/-- The sign bit, bit 63. -/
def signBit (v : F64) : Bool := v.getLsbD 63

/-- Neither zero nor subnormal nor infinite nor NaN. -/
def IsNormal (v : F64) : Prop := 0 < expField v ∧ expField v < 2047

/-- The rational number a normal or zero pattern stands for: sign, hidden leading one, 52 fraction bits, exponent bias 1023. Other
patterns (subnormal, infinite, NaN) have no value here; the converter never makes one (43_float_conversion.md R145). -/
def floatValue (v : F64) : Option ℚ :=
  if 0 < expField v ∧ expField v < 2047 then
    some ((if signBit v then -1 else 1) * (2 ^ 52 + fracField v : ℚ) * (2 : ℚ) ^ ((expField v : ℤ) - 1075))
  else if expField v = 0 ∧ fracField v = 0 then some 0
  else none

end Sys2Proof.Machine
end

