-- ==== Sys2Proof/Certificates/Slice0/Obligations.lean ====
section
/-! DEFINITION. The statements for the provers. Each docstring names the rule of the spec it formalises, or the
section it rests on and the choice it rests on. `0x00010007` is the mask of the four fault bits (42_fault_check_and_extract.md R120). -/

open Sys2Proof Sys2Proof.Machine

/-! ### Reset, initialisation -/

/-- The reset values of 10_state.md section 12, which the spec calls its own (decision D12). That no buffer byte holds a value is the
model's choice among the two the spec allows there (log entry 7); the model's own fields are empty (log entries 2 to 5). -/
def Obligations.ResetHoldsTheResetValues : Prop :=
  State.reset.cmd = 0b00#2 ∧ NoResult State.reset ∧
  statusCode State.reset.status = 0#3 ∧ statusDone State.reset.status = false ∧ statusShape State.reset.status = 0b00#2 ∧
  State.reset.cs = .high ∧ State.reset.trace = [] ∧
  (∀ a, a < 4 → readByte State.reset.buf a = .fault (.unwrittenByte a)) ∧
  State.reset.errValue = none ∧ State.reset.bus = none ∧ State.reset.program = [] ∧ State.reset.draws = 0

/-- The invariant holds after reset. -/
def Obligations.ResetMeetsInvariant : Prop := Inv State.reset

/-- Initialisation (70_reset_and_hazards.md section 1): it leaves the chip-select line alone, makes no transfer, logs nothing, leaves the block
at its reset values, and with the line high (the environment's duty) the invariant holds. That the inputs stay is the model's
choice (log entry 16). -/
def Obligations.InitialisationResetsTheBlockAndDrivesNothing : Prop :=
  ∀ s : State,
    (initialise s).cs = s.cs ∧ (initialise s).draws = s.draws ∧ (initialise s).trace = [] ∧
    (initialise s).cmd = 0b00#2 ∧ (initialise s).status = 0#6 ∧ NoResult (initialise s) ∧
    (initialise s).errValue = none ∧ (initialise s).program = s.program ∧ (initialise s).bus = s.bus ∧
    (s.cs = .high → Inv (initialise s))

/-! ### Encoding -/

/-- The four command words of 30_encoding.md section 3, each written out bit by bit in a byte, and the two fields of section 1: `CMD[1]` is
`RAW`, `CMD[0]` is `RETURN_INTERNAL`. The place of the two bits is the spec's decision D3, the byte around them log entry 1. -/
def Obligations.CommandWordsSelectTheFourForms : Prop :=
  decode [0b00000000#8] = .ok (.readSingle, []) ∧ decode [0b00000010#8] = .ok (.readSingleRaw, []) ∧
  decode [0b00000001#8] = .ok (.readPair, []) ∧ decode [0b00000011#8] = .ok (.readPairRaw, []) ∧
  decodeTableWord 8 0 = some .readSingle ∧ decodeTableWord 8 2 = some .readSingleRaw ∧
  decodeTableWord 8 1 = some .readPair ∧ decodeTableWord 8 3 = some .readPairRaw ∧
  (∀ returnInternal raw, (decodeCmd (commandWord returnInternal raw)).raw = raw ∧
    (decodeCmd (commandWord returnInternal raw)).returnInternal = returnInternal)

/-- The decoder accepts exactly the encoded instructions: a byte string decodes to `i` and a rest when and only when it is the encoding
of `i` and that rest. That the byte's six upper bits must be zero is the model's choice (log entry 1). -/
def Obligations.DecodeAcceptsExactlyEncodings : Prop :=
  ∀ (bs : List Byte) (i : Instr) (rest : List Byte), decode bs = .ok (i, rest) ↔ bs = encode i ++ rest

/-- The frame layout of 30_encoding.md section 1 (format F): the fields determine the frame and the frame the fields, no bit dropped. -/
def Obligations.FrameFieldsRoundTrip : Prop :=
  (∀ f : FrameFields, decodeFrame (encodeFrame f) = f) ∧ (∀ w : Frame, encodeFrame (decodeFrame w) = w)

/-- The text of a statement parses to it, with or without a comment after it (30_encoding.md section 5, lexical rules of log
entry 19). -/
def Obligations.LineTextRoundTrip : Prop :=
  ∀ (l : AsmLine) (comment : List Char),
    parseLine (printLine l) = .ok (some l) ∧ parseLine (printLine l ++ ';' :: comment) = .ok (some l)

/-- Decode and encode agree on whole programs: the text of any list of calls parses back, and assembles to exactly those calls, every
command word and every response byte at every value. The text does not show the value of a failed transfer, so `errs` supplies it
(30_encoding.md section 5, log entry 19). -/
def Obligations.ProgramTextRoundTrip : Prop :=
  ∀ (calls : List HostCall) (errs : Nat → TransportFault),
    (∀ k c e, calls[k]? = some c → c.resp = .err e → errs k = e) →
    parseProgram ((disassemble calls).map printLine) = .ok (disassemble calls) ∧
    assemble errs (disassemble calls) = some calls ∧ programWellFormed (disassemble calls) = true

/-- The pseudo-instruction `READ` is `READ.SINGLE` (30_encoding.md section 5; the default of `return_internal` is the spec's decision D5). -/
def Obligations.PlainReadIsReadSingle : Prop :=
  parseLine "READ".toList = .ok (some (.read .readSingle)) ∧ encodeCmd .readSingle = commandWord false false ∧
  encodeCmd .readSingleRaw = commandWord false true ∧ encodeCmd .readPair = commandWord true false ∧
  encodeCmd .readPairRaw = commandWord true true

/-! ### The buffer -/

/-- The buffer's byte order (20_memory.md section 2): inside the buffer a write succeeds, its most significant byte lands at the lowest
address, a read of the same bytes gives the value back, every other byte stays; and a read is the concatenation of its bytes, lowest
address most significant; the views of the whole frame and the worked check are as there. Outside the buffer that section defines neither
access: that both then stop, the write with `noSuchAddress`, is the model's (log entry 20, DEDUCED). -/
def Obligations.BufferIsBigEndian : Prop :=
  (∀ (m : Memory) (addr n : Nat) (v : BitVec (8 * n)), addr + n ≤ 4 →
    ∃ m', memWrite m addr n v = .next m' ∧ memRead m' addr n = .next v ∧
      (∀ k, k < n → readByte m' (addr + k) = .next (v.extractLsb' (8 * (n - 1 - k)) 8)) ∧
      (∀ a, a < addr ∨ addr + n ≤ a → readByte m' a = readByte m a)) ∧
  (∀ (m : Memory) (addr n : Nat) (v : BitVec (8 * n)), memRead m addr n = .next v →
    ∀ k, k < n → readByte m (addr + k) = .next (v.extractLsb' (8 * (n - 1 - k)) 8)) ∧
  (∀ (m : Memory) (addr n : Nat) (v : BitVec (8 * n)), 0 < n → 4 < addr + n →
    (∃ a, memWrite m addr n v = .fault (.noSuchAddress a)) ∧ (∃ r, memRead m addr n = .fault r)) ∧
  (∀ (m : Memory) (w : Frame), memRead m 0 4 = .next w →
    memRead m 0 2 = .next (w.extractLsb' 16 16) ∧ memRead m 2 2 = .next (w.extractLsb' 0 16) ∧
    memRead m 1 1 = .next (w.extractLsb' 16 8) ∧ memRead m 3 1 = .next (w.extractLsb' 0 8)) ∧
  (∀ m : Memory, readByte m 0 = .next 0x0C → readByte m 1 = .next 0x00 → readByte m 2 = .next 0x08 → readByte m 3 = .next 0x00 →
    memRead m 0 2 = .next (3072#16) ∧ memRead m 2 2 = .next (2048#16))

/-- Memories in canonical form that read alike at every address are the same data: the listing has one form (the model's own,
20_memory.md section 1 gives the addresses). -/
def Obligations.CanonicalBuffersAreEqual : Prop :=
  ∀ m m' : Memory, Memory.wf m = true → Memory.wf m' = true → (∀ a, readByte m a = readByte m' a) → m = m'

/-! ### The datapath -/

/-- 42_fault_check_and_extract.md R120: the order, the mask, the blindness to the other 28 bits, the worked examples; and the machine's
check on a buffer that holds the frame is that function. -/
def Obligations.FaultCheckOrder : Prop :=
  (∀ w : Frame, faultCheckFrame w =
    if w.getLsbD 0 then some .openCircuit
    else if w.getLsbD 1 then some .shortToGround
    else if w.getLsbD 2 then some .shortToPower
    else if w.getLsbD 16 then some .faultyReading
    else none) ∧
  (∀ w : Frame, faultCheckFrame w = none ↔ w &&& 0x00010007#32 = 0#32) ∧
  (∀ w w' : Frame, w &&& 0x00010007#32 = w' &&& 0x00010007#32 → faultCheckFrame w = faultCheckFrame w') ∧
  (∀ (m : Memory) (w : Frame), HoldsFrame m w → checkFaults m = .next (faultCheckFrame w)) ∧
  faultCheckFrame 0x0C000801#32 = some .openCircuit ∧ faultCheckFrame 0x0C010800#32 = some .faultyReading ∧
  faultCheckFrame 0x0C000800#32 = none

/-- 42_fault_check_and_extract.md R122: each half is the signed value of its own 16 bits and does not see the other half; the worked examples. -/
def Obligations.HalvesAreIndependentSignedIntegers : Prop :=
  (∀ (m : Memory) (w : Frame), HoldsFrame m w →
    readUpper m = .next (w.extractLsb' 16 16).toInt ∧ readLower m = .next (w.extractLsb' 0 16).toInt) ∧
  (∀ (u u' l l' : Half) (m m' : Memory), HoldsFrame m (u ++ l) →
    (HoldsFrame m' (u ++ l') → readUpper m' = readUpper m) ∧ (HoldsFrame m' (u' ++ l) → readLower m' = readLower m)) ∧
  (∀ m, HoldsFrame m 0xFFFC0010#32 → readUpper m = .next (-4) ∧ readLower m = .next 16) ∧
  (∀ m, HoldsFrame m 0x0190C900#32 → readUpper m = .next 400 ∧ readLower m = .next (-14080))

/-- Shift and field extraction agree for all 65536 halves (42_fault_check_and_extract.md section 4, a law the spec marks as derived). -/
def Obligations.ShiftIsFieldExtraction : Prop :=
  ∀ u : Half, asr (sint16 u) 2 = (u.extractLsb' 2 14).toInt ∧ asr (sint16 u) 4 = (u.extractLsb' 4 12).toInt

/-- The arithmetic shift is the floor of the quotient, and on a half it is the shift that copies the sign bit
(42_fault_check_and_extract.md section 4; the floor law is the spec's general knowledge G2, log entry 18). -/
def Obligations.ArithmeticShiftIsFloor : Prop :=
  (∀ (n : Int) (k : Nat), asr n k = ⌊(n : ℚ) / (2 : ℚ) ^ k⌋) ∧
  (∀ (u : Half) (k : Nat), asr (sint16 u) k = (u.sshiftRight k).toInt)

/-- The ranges of the raw values, every value taken, and no loss in the 32-bit register (42_fault_check_and_extract.md section 4, which the
spec marks as derived). -/
def Obligations.RawValuesFillTheirRanges : Prop :=
  (∀ u : Half, -8192 ≤ extractTC (sint16 u) ∧ extractTC (sint16 u) ≤ 8191 ∧
    -2048 ≤ extractINT (sint16 u) ∧ extractINT (sint16 u) ≤ 2047) ∧
  (∀ n : Int, -8192 ≤ n → n ≤ 8191 → (∃ u : Half, extractTC (sint16 u) = n) ∧ (toBits32 n).toInt = n) ∧
  (∀ n : Int, -2048 ≤ n → n ≤ 2047 → ∃ u : Half, extractINT (sint16 u) = n)

/-- Sign extension into the result registers: the high bits are copies of the field's own sign bit, the low bits the field
(42_fault_check_and_extract.md section 4; the width 32 is the spec's decision D6). -/
def Obligations.RawResultsAreSignExtended : Prop :=
  ∀ (u l : Half),
    toBits32 (extractTC (sint16 u)) = (u.extractLsb' 2 14).signExtend 32 ∧
    toBits32 (extractINT (sint16 l)) = (l.extractLsb' 4 12).signExtend 32 ∧
    (∀ j, 14 ≤ j → j < 32 → (toBits32 (extractTC (sint16 u))).getLsbD j = u.getLsbD 15) ∧
    (∀ j, 12 ≤ j → j < 32 → (toBits32 (extractINT (sint16 l))).getLsbD j = l.getLsbD 15)

/-! ### The converter -/

/-- The scale functions (43_float_conversion.md sections 2 and 3): `tofloat` is exact, `ScaleTC` is its quotient by 4.0, `ScaleINT` its product with 0.0625, exactly; the
worked examples. The bit patterns rest on the binary64 layout (decision D7, log entry 17, PRESUMED). -/
def Obligations.ScalingDividesAndMultipliesExactly : Prop :=
  floatValue 0x4010000000000000#64 = some 4 ∧ floatValue 0x3FB0000000000000#64 = some (1 / 16) ∧
  (∀ n : Int, -8192 ≤ n → n ≤ 8191 →
    ∃ a, floatValue (toFloat n) = some a ∧ a = n ∧ floatValue (scaleTC n) = some (a / 4)) ∧
  (∀ n : Int, -2048 ≤ n → n ≤ 2047 →
    ∃ a, floatValue (toFloat n) = some a ∧ a = n ∧ floatValue (scaleINT n) = some (a * (1 / 16))) ∧
  scaleTC 768 = 0x4068000000000000#64 ∧ floatValue (scaleTC 768) = some 192 ∧
  scaleTC (-1) = 0xBFD0000000000000#64 ∧ floatValue (scaleTC (-1)) = some (-1 / 4) ∧
  scaleINT 128 = 0x4020000000000000#64 ∧ floatValue (scaleINT 128) = some 8

/-- The result is the unique binary64 pattern of its value; only zero has a second one, the negative zero, which is never the result
(43_float_conversion.md section 3, which the spec marks as derived). -/
def Obligations.ScaledPatternIsUnique : Prop :=
  (∀ (n : Int) (v : F64), -8192 ≤ n → n ≤ 8191 → floatValue v = some ((n : ℚ) / 4) →
    v = scaleTC n ∨ (n = 0 ∧ v = 0x8000000000000000#64)) ∧
  (∀ (n : Int) (v : F64), -2048 ≤ n → n ≤ 2047 → floatValue v = some ((n : ℚ) / 16) →
    v = scaleINT n ∨ (n = 0 ∧ v = 0x8000000000000000#64))

/-- No NaN, infinity, subnormal or negative zero: positive zero for 0, a normal number otherwise, with the sign of the raw value
(43_float_conversion.md section 3, which the spec marks as derived). -/
def Obligations.ConverterMakesNoSpecialValue : Prop :=
  scaleTC 0 = 0#64 ∧ scaleINT 0 = 0#64 ∧
  (∀ n : Int, -8192 ≤ n → n ≤ 8191 → n ≠ 0 → IsNormal (scaleTC n) ∧ signBit (scaleTC n) = decide (n < 0)) ∧
  (∀ n : Int, -2048 ≤ n → n ≤ 2047 → n ≠ 0 → IsNormal (scaleINT n) ∧ signBit (scaleINT n) = decide (n < 0))

/-- Scaling may be done by lowering the exponent of the converted integer, bit for bit (43_float_conversion.md section 3, which the spec
marks as derived). -/
def Obligations.ScalingIsAnExponentAdjustment : Prop :=
  (∀ n : Int, -8192 ≤ n → n ≤ 8191 → scaleTC n = lowerExponent (toFloat n) 2) ∧
  (∀ n : Int, -2048 ≤ n → n ≤ 2047 → scaleINT n = lowerExponent (toFloat n) 4)

/-! ### The four forms: result, completion, errors -/

/-- 40_read_operations.md R81, `READ.SINGLE`: on every frame without a fault bit it completes with `f[0]` and nothing else; on each error it
completes with no result; it is refused only without the converter; the corner cases and the worked example. -/
def Obligations.ReadSingleResult : Prop :=
  decodeCmd 0b00#2 = .readSingle ∧
  (∀ (s : State) (b0 b1 b2 b3 : Byte), nextResponse s = .ok b0 b1 b2 b3 → (b0 ++ b1 ++ b2 ++ b3 : Frame) &&& 0x00010007#32 = 0#32 →
    ∃ t, exec .readSingle s = .next t ∧ t.f0 = some (scaleTC (fieldTC (b0 ++ b1 ++ b2 ++ b3))) ∧
      t.x0 = none ∧ t.x1 = none ∧ t.f1 = none ∧ DecodedState 0b00#2 (b0 ++ b1 ++ b2 ++ b3) s t) ∧
  (∀ (s : State) (k : ErrorKind), errorOf (nextResponse s) = some k →
    ∃ t, exec .readSingle s = .next t ∧ RaisedState 0b00#2 k s t) ∧
  (∀ s, readSingleOn false s = .refused (.noFloatConverter 0b00#2)) ∧
  scaleTC 0 = 0#64 ∧ floatValue (scaleTC (-8192)) = some (-2048) ∧ floatValue (scaleTC 8191) = some (8191 / 4) ∧
  fieldTC 0x80000000#32 = -8192 ∧ fieldTC 0x80020000#32 = -8192 ∧
  errorOf (.ok 0x80 0x01 0 0) = some .faultyReading ∧ errorOf (.ok 0x80 0x03 0 0) = some .faultyReading ∧
  fieldTC 0x0C000800#32 = 768 ∧ scaleTC 768 = 0x4068000000000000#64

/-- 40_read_operations.md R82, `READ.SINGLERAW`: on every frame without a fault bit it completes with `x[0]` and nothing else; on each error it
completes with no result, whatever `HAS_FLOAT` is; the range, the sign extension, the dropped bits and the worked example. -/
def Obligations.ReadSingleRawResult : Prop :=
  decodeCmd 0b10#2 = .readSingleRaw ∧
  (∀ (s : State) (b0 b1 b2 b3 : Byte), nextResponse s = .ok b0 b1 b2 b3 → (b0 ++ b1 ++ b2 ++ b3 : Frame) &&& 0x00010007#32 = 0#32 →
    ∃ t, exec .readSingleRaw s = .next t ∧ t.x0 = some (toBits32 (fieldTC (b0 ++ b1 ++ b2 ++ b3))) ∧
      t.x1 = none ∧ t.f0 = none ∧ t.f1 = none ∧ DecodedState 0b10#2 (b0 ++ b1 ++ b2 ++ b3) s t) ∧
  (∀ (s : State) (k : ErrorKind), errorOf (nextResponse s) = some k →
    ∃ t, exec .readSingleRaw s = .next t ∧ RaisedState 0b10#2 k s t) ∧
  (∀ hasFloat s, execOn hasFloat .readSingleRaw s = exec .readSingleRaw s) ∧
  (∀ w : Frame, -8192 ≤ (toBits32 (fieldTC w)).toInt ∧ (toBits32 (fieldTC w)).toInt ≤ 8191) ∧
  (∀ w : Frame, fieldTC w < 0 → (toBits32 (fieldTC w)).extractLsb' 13 19 = BitVec.allOnes 19) ∧
  (∀ (k : Int) (u : Half), 4 * k ≤ sint16 u → sint16 u ≤ 4 * k + 3 → extractTC (sint16 u) = k) ∧
  fieldTC 0xFFFC0000#32 = -1 ∧ toBits32 (-1) = 0xFFFFFFFF#32

/-- 40_read_operations.md R83, `READ.PAIR`: on every frame without a fault bit it completes with `f[0]` and `f[1]`, in this order; on each error it
completes with no result; it is refused only without the converter; the corner cases and the worked example. -/
def Obligations.ReadPairResult : Prop :=
  decodeCmd 0b01#2 = .readPair ∧
  (∀ (s : State) (b0 b1 b2 b3 : Byte), nextResponse s = .ok b0 b1 b2 b3 → (b0 ++ b1 ++ b2 ++ b3 : Frame) &&& 0x00010007#32 = 0#32 →
    ∃ t, exec .readPair s = .next t ∧ t.f0 = some (scaleTC (fieldTC (b0 ++ b1 ++ b2 ++ b3))) ∧
      t.f1 = some (scaleINT (fieldINT (b0 ++ b1 ++ b2 ++ b3))) ∧
      t.x0 = none ∧ t.x1 = none ∧ DecodedState 0b01#2 (b0 ++ b1 ++ b2 ++ b3) s t) ∧
  (∀ (s : State) (k : ErrorKind), errorOf (nextResponse s) = some k →
    ∃ t, exec .readPair s = .next t ∧ RaisedState 0b01#2 k s t) ∧
  (∀ s, readPairOn false s = .refused (.noFloatConverter 0b01#2)) ∧
  scaleINT 0 = 0#64 ∧ floatValue (scaleINT (-2048)) = some (-128) ∧ floatValue (scaleINT 2047) = some (2047 / 16) ∧
  floatValue (scaleTC (fieldTC 0xFFFC0010#32)) = some (-1 / 4) ∧ floatValue (scaleINT (fieldINT 0xFFFC0010#32)) = some (1 / 16) ∧
  scaleTC (fieldTC 0x0C000800#32) = 0x4068000000000000#64 ∧ scaleINT (fieldINT 0x0C000800#32) = 0x4020000000000000#64

/-- 40_read_operations.md R84, `READ.PAIRRAW`: on every frame without a fault bit it completes with `x[0]` and `x[1]`, in this order; on each error
it completes with no result, whatever `HAS_FLOAT` is; the range, the dropped bits, the corner cases and the worked example. -/
def Obligations.ReadPairRawResult : Prop :=
  decodeCmd 0b11#2 = .readPairRaw ∧
  (∀ (s : State) (b0 b1 b2 b3 : Byte), nextResponse s = .ok b0 b1 b2 b3 → (b0 ++ b1 ++ b2 ++ b3 : Frame) &&& 0x00010007#32 = 0#32 →
    ∃ t, exec .readPairRaw s = .next t ∧ t.x0 = some (toBits32 (fieldTC (b0 ++ b1 ++ b2 ++ b3))) ∧
      t.x1 = some (toBits32 (fieldINT (b0 ++ b1 ++ b2 ++ b3))) ∧
      t.f0 = none ∧ t.f1 = none ∧ DecodedState 0b11#2 (b0 ++ b1 ++ b2 ++ b3) s t) ∧
  (∀ (s : State) (k : ErrorKind), errorOf (nextResponse s) = some k →
    ∃ t, exec .readPairRaw s = .next t ∧ RaisedState 0b11#2 k s t) ∧
  (∀ hasFloat s, execOn hasFloat .readPairRaw s = exec .readPairRaw s) ∧
  (∀ w : Frame, -2048 ≤ (toBits32 (fieldINT w)).toInt ∧ (toBits32 (fieldINT w)).toInt ≤ 2047) ∧
  (∀ (k : Int) (l : Half), sint16 l = 16 * k ∨ sint16 l = 16 * k + 8 → extractINT (sint16 l) = k) ∧
  fieldINT 0x0000FFF0#32 = -1 ∧ toBits32 (-1) = 0xFFFFFFFF#32 ∧
  fieldINT 0x00008000#32 = -2048 ∧ toBits32 (-2048) = 0xFFFFF800#32 ∧
  toBits32 (fieldTC 0x0C000800#32) = 0x00000300#32 ∧ toBits32 (fieldINT 0x0C000800#32) = 0x00000080#32

/-- The frame of the four forms, which have one shape: whatever the outcome, `CMD`, the calls to come and every address outside the four
stored bytes are unchanged, the stored bytes are those of the transfer at addresses 0 to 3, `STATUS` has its three fields written and
nothing else (it has no other bit), and the result registers outside the form's own hold `none`
(10_state.md sections 3 to 7, 20_memory.md section 3). -/
def Obligations.ReadFrameOfEveryForm : Prop :=
  ∀ (i : Instr) (s t : State), exec i s = .next t →
    ReadFrame (encodeCmd i) s t ∧
    HoldsFrame t.buf (transferredFrame (nextResponse s) s.draws) ∧
    (i ≠ .readSingleRaw → i ≠ .readPairRaw → t.x0 = none) ∧ (i ≠ .readPairRaw → t.x1 = none) ∧
    (i ≠ .readSingle → i ≠ .readPair → t.f0 = none) ∧ (i ≠ .readPair → t.f1 = none)

/-- 41_transaction_sequence.md R105: every `read` of every form, on every path, ends with exactly three more events, in order, and the toggle
sequence of `n` reads is `CsLow, CsHigh` repeated `n` times; 41_transaction_sequence.md R102's `CS = high` at the end of every `read`. -/
def Obligations.EveryReadIsBracketed : Prop :=
  (∀ (i : Instr) (s : State), ∃ t, exec i s = .next t ∧ t.cs = .high ∧ t.trace = s.trace ++ [.csLow, .xfer, .csHigh]) ∧
  (∀ n : Nat, toggles (brackets n) = (List.replicate n [Event.csLow, Event.csHigh]).flatten)

/-- The chip-select control (41_transaction_sequence.md R100): `set_low()` and `set_high()` set the level and nothing else, at once, and doing one
twice is doing it once. -/
def Obligations.ChipSelectControlSetsTheLevel : Prop :=
  ∀ s : State, setLow s = { s with cs := .low } ∧ setHigh s = { s with cs := .high } ∧
    setLow (setLow s) = setLow s ∧ setHigh (setHigh s) = setHigh s

/-- 41_transaction_sequence.md R104: a successful transfer stores all four bytes, `b0` at `B[0]`, `FRAME <- b0 ++ b1 ++ b2 ++ b3`, and nothing of the
old content remains: it is complete when `transfer` returns, and stands so after the `read` too. -/
def Obligations.SuccessfulTransferStoresFourBytes : Prop :=
  (∀ (s : State) (b0 b1 b2 b3 : Byte), ∃ t, transfer (.ok b0 b1 b2 b3) s = .next t ∧
    readByte t.buf 0 = .next b0 ∧ readByte t.buf 1 = .next b1 ∧ readByte t.buf 2 = .next b2 ∧ readByte t.buf 3 = .next b3 ∧
    frameOf t.buf = .next (b0 ++ b1 ++ b2 ++ b3)) ∧
  (∀ (i : Instr) (s : State) (b0 b1 b2 b3 : Byte), nextResponse s = .ok b0 b1 b2 b3 →
    ∃ t, exec i s = .next t ∧
      readByte t.buf 0 = .next b0 ∧ readByte t.buf 1 = .next b1 ∧ readByte t.buf 2 = .next b2 ∧ readByte t.buf 3 = .next b3 ∧
      frameOf t.buf = .next (b0 ++ b1 ++ b2 ++ b3))

/-- A failed transfer is never decoded (41_transaction_sequence.md section 2): every form ends with `TransportError`, no result, the error's own
value handed on, the bracket closed, and some value in the buffer that the report does not depend on (the free value of log entry 4:
whatever frame it is, even one with a fault bit, the code is 5). -/
def Obligations.FailedTransferIsNeverDecoded : Prop :=
  ∀ (i : Instr) (s : State) (e : TransportFault), nextResponse s = .err e →
    ∃ t, exec i s = .next t ∧ t.status = packStatus (encodeCmd i) true 5#3 ∧ NoResult t ∧ t.errValue = some e ∧
      t.cs = .high ∧ t.trace = s.trace ++ bracket ∧ ∃ w, HoldsFrame t.buf w

/-- 60_exceptions.md R161: exactly one kind is reported, the first of `TransportError`, `OpenCircuit`, `ShortToGround`, `ShortToPower`,
`FaultyReading`, in every form; the table by the four fault bits; with no fault bit the code is 0. -/
def Obligations.ErrorsAreReportedInPriority : Prop :=
  ∀ (i : Instr) (s : State),
    (∀ e, nextResponse s = .err e → ∃ t, exec i s = .next t ∧ statusCode t.status = 5#3 ∧ NoResult t) ∧
    (∀ b0 b1 b2 b3 w, nextResponse s = .ok b0 b1 b2 b3 → w = (b0 ++ b1 ++ b2 ++ b3 : Frame) →
      ∃ t, exec i s = .next t ∧
        (w.getLsbD 0 = true → statusCode t.status = 1#3 ∧ NoResult t) ∧
        (w.getLsbD 0 = false → w.getLsbD 1 = true → statusCode t.status = 2#3 ∧ NoResult t) ∧
        (w.getLsbD 0 = false → w.getLsbD 1 = false → w.getLsbD 2 = true → statusCode t.status = 3#3 ∧ NoResult t) ∧
        (w.getLsbD 0 = false → w.getLsbD 1 = false → w.getLsbD 2 = false → w.getLsbD 16 = true →
          statusCode t.status = 4#3 ∧ NoResult t) ∧
        (w.getLsbD 0 = false → w.getLsbD 1 = false → w.getLsbD 2 = false → w.getLsbD 16 = false →
          statusCode t.status = 0#3 ∧ ¬ NoResult t))

/-- What taking an error does (60_exceptions.md section 3; the report by `STATUS` is the spec's decision D9): the code, the handed value, and nothing
else of the state changes. -/
def Obligations.RaiseWritesTheCodeOnly : Prop :=
  ∀ (k : ErrorKind) (s : State),
    raiseError k s = { s with status := packStatus (statusShape s.status) (statusDone s.status) (errorCode k)
                              errValue := handedValue k }

/-- Errors are typed (60_exceptions.md section 3): the code and the handed value give back the kind, so two kinds never look alike. -/
def Obligations.ErrorKindIsRecovered : Prop :=
  (∀ k : ErrorKind, errorOfCode (errorCode k) (handedValue k) = some k) ∧
  (∀ k : ErrorKind, errorCode k ≠ codeOk ∧ (errorCode k).toNat ≤ 5) ∧
  (∀ k k' : ErrorKind, errorCode k = errorCode k' → handedValue k = handedValue k' → k = k')

/-- Which result registers hold a value after a `read`, by form and outcome (40_read_operations.md section 6, the spec's decision D10). -/
def Obligations.OnlyTheShapeHoldsResults : Prop :=
  ∀ (i : Instr) (s t : State), exec i s = .next t → ResultsFollowStatus t ∧
    (statusCode t.status = codeOk ↔ errorOf (nextResponse s) = none)

/-- 40_read_operations.md R85: for one and the same response the raw integers, the error kind, and the values do not depend on the options:
`f[0]` after `READ.SINGLE` is `f[0]` after `READ.PAIR` is `ScaleTC` of the `x[0]` of either raw form, `f[1]` is `ScaleINT` of `x[1]`. -/
def Obligations.OptionsAreOrthogonal : Prop :=
  (∀ s : State, errorOf (nextResponse s) = none →
    ∃ t1 t2 t3 t4, exec .readSingle s = .next t1 ∧ exec .readSingleRaw s = .next t2 ∧
      exec .readPair s = .next t3 ∧ exec .readPairRaw s = .next t4 ∧
      ∃ x y : Word, t2.x0 = some x ∧ t4.x0 = some x ∧ t1.f0 = some (scaleTC x.toInt) ∧ t3.f0 = t1.f0 ∧
        t4.x1 = some y ∧ t3.f1 = some (scaleINT y.toInt)) ∧
  (∀ (s : State) (k : ErrorKind), errorOf (nextResponse s) = some k →
    ∀ i, ∃ t, exec i s = .next t ∧ statusCode t.status = errorCode k ∧ t.errValue = handedValue k)

/-- 40_read_operations.md R86: two reads with the same command and the same response report the same and append the same three events, whatever the
states before; up to `FRAME` after a transport failure. -/
def Obligations.ReadDependsOnTheResponseAlone : Prop :=
  ∀ (i : Instr) (s s' : State), nextResponse s = nextResponse s' →
    ∃ t t', exec i s = .next t ∧ exec i s' = .next t' ∧ SameReport t t' ∧
      t.trace = s.trace ++ bracket ∧ t'.trace = s'.trace ++ bracket ∧
      (∀ b0 b1 b2 b3, nextResponse s = .ok b0 b1 b2 b3 → frameOf t.buf = frameOf t'.buf)

/-- Frame bits 17 and 3 change nothing the host can see, in any form (30_encoding.md section 4, 42_fault_check_and_extract.md section 4, which the
spec marks as derived). -/
def Obligations.UnnamedFrameBitsAreIgnored : Prop :=
  ∀ (i : Instr) (s s' : State) (w w' : Frame), nextResponse s = responseOfFrame w → nextResponse s' = responseOfFrame w' →
    w &&& 0xFFFDFFF7#32 = w' &&& 0xFFFDFFF7#32 →
    ∃ t t', exec i s = .next t ∧ exec i s' = .next t' ∧ SameReport t t'

/-- On a block without the converter exactly the scaled forms are refused and the raw forms run as ever; the block of the spec has it
(30_encoding.md section 4, the spec's decision D8). -/
def Obligations.ScaledFormsNeedTheConverter : Prop :=
  ∀ (i : Instr) (s : State),
    (i.raw = false → execOn false i s = .refused (.noFloatConverter (encodeCmd i))) ∧
    (i.raw = true → execOn false i s = exec i s) ∧ execOn true i s = exec i s ∧
    (i.wellFormedOn false = i.raw) ∧ i.wellFormed = true

/-! ### The host -/

/-- A host read of a register that holds `none` is a model fault, of one that holds a value gives it, of `STATUS` is always defined; without the
converter the float registers do not exist (10_state.md sections 5 to 7, the spec's decisions D8, D10). -/
def Obligations.HostReadsOfNoneFault : Prop :=
  ∀ s : State,
    (s.x0 = none → hostReadX0 s = .fault (.registerHoldsNone .x0)) ∧ (∀ v, s.x0 = some v → hostReadX0 s = .next v) ∧
    (s.x1 = none → hostReadX1 s = .fault (.registerHoldsNone .x1)) ∧ (∀ v, s.x1 = some v → hostReadX1 s = .next v) ∧
    (s.f0 = none → hostReadF0 s = .fault (.registerHoldsNone .f0)) ∧ (∀ v, s.f0 = some v → hostReadF0 s = .next v) ∧
    (s.f1 = none → hostReadF1 s = .fault (.registerHoldsNone .f1)) ∧ (∀ v, s.f1 = some v → hostReadF1 s = .next v) ∧
    hostReadStatus s = s.status ∧
    (∀ r v, hostReadFloatOn false r v = .refused (.registerAbsent r))

/-- In every good state the host can take a result exactly when a `read` has completed (41_transaction_sequence.md section 4,
70_reset_and_hazards.md section 2 hazard H-e). -/
def Obligations.HostTakesAResultExactlyAfterARead : Prop :=
  ∀ s : State, Inv s → (hostTakeResult s).isSome = statusDone s.status

/-- The machine refines the document's `read`: after the step of a call the host takes exactly what the document's function of the two options
and the response gives, from every state. The document's function works on the frame as one 32-bit vector by signed bit fields, the machine
byte by byte, by halves and shifts. The same for the document's call itself, made with no other call pending (10_state.md section 11, 30_encoding.md section 5, 40_read_operations.md section 1). The list of
calls is the model's reading of the host (log entry 2), the field the handed value stands in the model's own (log entry 5). -/
def Obligations.StepRefinesTheDocumentsRead : Prop :=
  (∀ (s : State) (c : HostCall) (rest : List HostCall), s.program = c :: rest →
    ∃ t, step s = .next t ∧ hostTakeResult t = some (documentRead (c.cmd.getLsbD 0) (c.cmd.getLsbD 1) c.resp)) ∧
  (∀ (s : State) (returnInternal raw : Bool) (resp : BusResponse), s.program = [] →
    ∃ t, step (hostCallRead returnInternal raw resp s) = .next t ∧
      hostTakeResult t = some (documentRead returnInternal raw resp))

/-! ### The step and the run -/

/-- A step runs the decoded instruction: with a call at the head of the host's list whose command byte decodes to `i`, the step is `exec i` in the
state where `CMD` holds the word, the call is off the list, and the transceiver's answer is the call's. What the step adds around `exec` is the
model's reading of the host (log entry 2; 10_state.md sections 3 and 8). -/
def Obligations.StepRunsTheCalledForm : Prop :=
  ∀ (s : State) (c : HostCall) (rest : List HostCall) (i : Instr), s.program = c :: rest →
    decode [0#6 ++ c.cmd] = .ok (i, []) → i.wellFormed = true →
    step s = exec i { s with cmd := c.cmd, program := rest, bus := some c.resp }

/-- With no call pending the step changes nothing: "the block then waits for the next `read`" (10_state.md section 8; that waiting is a step is
the model's choice, log entry 10). -/
def Obligations.StepWaitsWithoutACall : Prop :=
  ∀ s : State, s.program = [] → step s = .next s

/-- The very next step of `withFetchWord` runs the table word's instruction, and completes from every state (log entry 2). -/
def Obligations.FetchWordRunsNext : Prop :=
  ∀ (s : State) (w : Nat) (i : Instr), w < 4 → decodeTableWord 8 w = some i →
    step (s.withFetchWord 8 w) = exec i { s with cmd := BitVec.ofNat 2 w, bus := some (.ok 0 0 0 0) } ∧
    ∃ t, step (s.withFetchWord 8 w) = .next t ∧ statusCode t.status = codeOk

/-- `CMD` is sampled at the start: the `read` the host starts runs the form of the word it wrote (10_state.md section 3, the spec's decision D3). -/
def Obligations.HostWrittenCommandIsSampled : Prop :=
  ∀ (s : State) (c : Cmd) (resp : BusResponse), s.program = [] →
    ∃ t, step (hostStartRead resp (hostWriteCmd c s)) = .next t ∧ t.cmd = c ∧ statusShape t.status = c

/-- Every step answers a next state: no `read` hangs, faults or is refused on the block of the spec (70_reset_and_hazards.md section 4, under its
premise that every transfer returns, log entry 13). -/
def Obligations.EveryStepCompletes : Prop :=
  ∀ s : State, ∃ t, step s = .next t

/-- Every step keeps the invariant, from every state that meets it, reachable or not (10_state.md sections 1 to 12, 70_reset_and_hazards.md
section 4). -/
def Obligations.StepKeepsInvariant : Prop :=
  ∀ s t : State, Inv s → step s = .next t → Inv t

/-- `STATUS` after a call's step is `16 * SHAPE + 8 + CODE` with a code of 0 to 5 (10_state.md section 6, the spec's decision D9), and `DONE` is never
cleared by a step. -/
def Obligations.StatusWordAfterAStep : Prop :=
  (∀ (s t : State) (c : HostCall) (rest : List HostCall), s.program = c :: rest → step s = .next t →
    ∃ code, code ≤ 5 ∧ t.status.toNat = 16 * c.cmd.toNat + 8 + code ∧
      (code = 0 ↔ errorOf c.resp = none)) ∧
  (∀ s t : State, statusDone s.status = true → step s = .next t → statusDone t.status = true)

/-- Two consecutive calls with identical command and response give identical reports and identical toggle sequences, from every state: the
document's P7 (40_read_operations.md section 3, 10_state.md section 11). -/
def Obligations.ConsecutiveIdenticalReadsAgree : Prop :=
  ∀ (s : State) (c : HostCall) (rest : List HostCall), s.program = c :: c :: rest →
    ∃ t u, step s = .next t ∧ step t = .next u ∧ SameReport t u ∧
      t.trace = s.trace ++ bracket ∧ u.trace = t.trace ++ bracket ∧ u.program = rest

/-- A run executes one `read` per call of the host's list: after as many steps as there are calls, from every state, the list is empty, `TRACE` has
three more events per call and one transfer per call was made; with a call in the list, or the line high at the start, the line is high
(70_reset_and_hazards.md section 4, 41_transaction_sequence.md sections 2 and 4). `program` and `draws` are the model's own fields
(log entries 2 and 4). -/
def Obligations.RunExecutesEveryCallOnce : Prop :=
  ∀ s : State, ∃ t, Host.Core.run Sys2Proof.core s.program.length s = .next t ∧
    t.program = [] ∧ t.trace = s.trace ++ brackets s.program.length ∧ t.draws = s.draws + s.program.length ∧
    (s.cs = .high ∨ s.program ≠ [] → t.cs = .high)

/-- No history: what the host sees after a run is decided by the last call alone, whatever the start state and whatever calls (errors among them)
came before (10_state.md section 11, 60_exceptions.md section 4: an error is not sticky). The list of calls is the model's own field
(log entry 2), and so is the handed value's (log entry 5). -/
def Obligations.LastCallDecidesTheReport : Prop :=
  ∀ (s s' : State) (calls calls' : List HostCall) (c : HostCall), s.program = calls ++ [c] → s'.program = calls' ++ [c] →
    ∃ t t', Host.Core.run Sys2Proof.core (calls.length + 1) s = .next t ∧
      Host.Core.run Sys2Proof.core (calls'.length + 1) s' = .next t' ∧ SameReport t t' ∧ t.cmd = t'.cmd

/-- The block passes error values on and never looks into them: renaming every error value of a state, in any way, renames those of the next
state and changes nothing else (41_transaction_sequence.md section 2, decision D13; the fields that hold the values are the model's own,
log entries 2, 3, 5, 6). -/
def Obligations.ErrorValuesPassThroughUnread : Prop :=
  ∀ (g : TransportFault → TransportFault) (s : State),
    ∃ t, step s = .next t ∧ step (renameFaults g s) = .next (renameFaults g t)
end

