-- ==== Sys2Proof/Laws/Float.lean ====
section
/-! SUPPORT. The converter's pattern, opened once (43_float_conversion.md R146). -/

namespace Sys2Proof.Machine

theorem floatBits_zero (k : Nat) : floatBits 0 k = 0#64 := rfl

/-- The pattern of a non-zero integer as sign, exponent and fraction. -/
theorem floatBits_of_ne_zero {n : Int} (k : Nat) (h : n ≠ 0) :
    floatBits n k = BitVec.ofNat 64 ((if n < 0 then 1 else 0) * 2 ^ 63 + (1023 + n.natAbs.log2 - k) * 2 ^ 52
      + (n.natAbs - 2 ^ n.natAbs.log2) * 2 ^ (52 - n.natAbs.log2)) := by
  rw [floatBits, if_neg h]
  rfl

/-- `p` is the index of the highest set bit, at most 13 for the raw values (43_float_conversion.md R146). -/
theorem highestBit_bounds {n : Int} (h : n ≠ 0) (hl : -8192 ≤ n) (hu : n ≤ 8191) :
    2 ^ highestBit n.natAbs ≤ n.natAbs ∧ n.natAbs < 2 ^ (highestBit n.natAbs + 1) ∧ highestBit n.natAbs ≤ 13 := by
  have hm : n.natAbs ≠ 0 := by omega
  exact ⟨Nat.log2_self_le hm, Nat.lt_log2_self, Nat.lt_succ_iff.mp ((Nat.log2_lt hm).mpr (by omega))⟩

end Sys2Proof.Machine
end

