-- ==== Sys2Proof/Laws/Memory.lean ====
section
/-! SUPPORT. What the memory operations do: a read after a write of the same byte, every other byte unchanged, the canonical form
kept, and the whole-frame store with the views of 20_memory.md R42. -/

namespace Sys2Proof.Machine

@[simp] theorem andThen_next {α β : Type} (v : α) (k : α → Access β) : andThen (.next v) k = k v := rfl
@[simp] theorem andThen_fault {α β : Type} (r : Fault) (k : α → Access β) : andThen (.fault r) k = .fault r := rfl
@[simp] theorem andThen_refused {α β : Type} (r : Refusal) (k : α → Access β) : andThen (.refused r) k = .refused r := rfl

/-- What a sequence that answers a value must have answered at its first part. -/
theorem andThen_eq_next {α β : Type} {a : Access α} {k : α → Access β} {v : β} (h : andThen a k = .next v) :
    ∃ u, a = .next u ∧ k u = .next v := by
  cases a with
  | next u => exact ⟨u, rfl, h⟩
  | fault r => cases h
  | refused r => cases h

/-! ### One byte -/

theorem lookup_insert_same (m : Memory) (a : Nat) (b : Byte) : lookupByte (insertByte m a b) a = some b := by
  induction m with
  | nil => simp [insertByte, lookupByte]
  | cons c m ih =>
    obtain ⟨k, d⟩ := c
    simp only [insertByte]
    split
    · simp [lookupByte]
    · split
      · simp [lookupByte]
      · next h => simp [lookupByte, Ne.symm h, ih]

theorem lookup_insert_other (m : Memory) {a a' : Nat} (b : Byte) (h : a' ≠ a) :
    lookupByte (insertByte m a b) a' = lookupByte m a' := by
  induction m with
  | nil => simp [insertByte, lookupByte, Ne.symm h]
  | cons c m ih =>
    obtain ⟨k, d⟩ := c
    simp only [insertByte]
    split
    · simp [lookupByte, Ne.symm h]
    · split
      · next hk => simp [lookupByte, ← hk, Ne.symm h]
      · simp [lookupByte, ih]

theorem read_insert_same (m : Memory) {a : Nat} (b : Byte) (ha : a < 4) : readByte (insertByte m a b) a = .next b := by
  simp [readByte, ha, lookup_insert_same]

theorem read_insert_other (m : Memory) {a a' : Nat} (b : Byte) (h : a' ≠ a) :
    readByte (insertByte m a b) a' = readByte m a' := by
  simp [readByte, lookup_insert_other m b h]

theorem read_outside (m : Memory) {a : Nat} (h : 4 ≤ a) : readByte m a = .fault (.noSuchAddress a) := by
  simp [readByte, Nat.not_lt.mpr h]

/-- What a byte write that succeeds did. -/
theorem writeByte_eq_next {m m' : Memory} {a : Nat} {b : Byte} (h : writeByte m a b = .next m') :
    a < 4 ∧ m' = insertByte m a b := by
  unfold writeByte at h
  split at h
  · exact ⟨‹_›, by cases h; rfl⟩
  · cases h

/-! ### The canonical form -/

theorem wf_iff (m : Memory) : Memory.wf m = true ↔ (m.Pairwise fun a b => a.1 < b.1) ∧ ∀ c ∈ m, c.1 < 4 := by
  simp [Memory.wf, unlistedByte]

theorem mem_insert {m : Memory} {a : Nat} {b : Byte} {c : Host.Cell} (h : c ∈ insertByte m a b) : c = (a, b) ∨ c ∈ m := by
  induction m with
  | nil => simpa [insertByte] using h
  | cons d m ih =>
    obtain ⟨k, e⟩ := d
    simp only [insertByte] at h
    split at h
    · simpa using h
    · split at h
      · simp only [List.mem_cons] at h ⊢; tauto
      · simp only [List.mem_cons] at h ⊢
        rcases h with h | h
        · exact .inr (.inl h)
        · rcases ih h with h | h
          · exact .inl h
          · exact .inr (.inr h)

theorem insert_keeps_wf {m : Memory} {a : Nat} {b : Byte} (h : Memory.wf m = true) (ha : a < 4) :
    Memory.wf (insertByte m a b) = true := by
  rw [wf_iff] at h ⊢
  refine ⟨?_, fun c hc => ?_⟩
  · have h1 := h.1
    clear h
    induction m with
    | nil => simp [insertByte]
    | cons d m ih =>
      obtain ⟨k, e⟩ := d
      rw [List.pairwise_cons] at h1
      simp only [insertByte]
      split
      · next hk =>
        refine List.pairwise_cons.mpr ⟨fun c hc => ?_, List.pairwise_cons.mpr h1⟩
        rcases List.mem_cons.mp hc with rfl | hc
        · exact hk
        · exact Nat.lt_trans hk (h1.1 c hc)
      · split
        · next hk => exact List.pairwise_cons.mpr ⟨fun c hc => hk ▸ h1.1 c hc, h1.2⟩
        · next h2 h3 =>
          refine List.pairwise_cons.mpr ⟨fun c hc => ?_, ih h1.2⟩
          rcases mem_insert hc with rfl | hc
          · exact Nat.lt_of_le_of_ne (Nat.not_lt.mp h2) (Ne.symm h3)
          · exact h1.1 c hc
  · rcases mem_insert hc with rfl | hc
    · exact ha
    · exact h.2 c hc

theorem writeByte_keeps_wf {m m' : Memory} {a : Nat} {b : Byte} (h : writeByte m a b = .next m') (hm : Memory.wf m = true) :
    Memory.wf m' = true := by
  obtain ⟨ha, rfl⟩ := writeByte_eq_next h
  exact insert_keeps_wf hm ha

theorem memWrite_keeps_wf {n : Nat} : ∀ {m m' : Memory} {a : Nat} {v : BitVec (8 * n)},
    memWrite m a n v = .next m' → Memory.wf m = true → Memory.wf m' = true := by
  induction n with
  | zero => intro m m' a v h hm; cases h; exact hm
  | succ n ih =>
    intro m m' a v h hm
    obtain ⟨m1, h1, h2⟩ := andThen_eq_next h
    exact writeByte_keeps_wf h2 (ih h1 hm)

/-! ### The whole frame -/

/-- The buffer with all four bytes stored, most significant first (41_transaction_sequence.md R104). -/
def loadFrame (m : Memory) (w : Frame) : Memory :=
  insertByte (insertByte (insertByte (insertByte m 0 (w.extractLsb' 24 8)) 1 (w.extractLsb' 16 8)) 2 (w.extractLsb' 8 8)) 3
    (w.extractLsb' 0 8)

/-- A slice of a slice. -/
theorem extract_extract {w : Nat} (v : BitVec w) {a b c d : Nat} (h : a + d ≤ b) :
    (v.extractLsb' c b).extractLsb' a d = v.extractLsb' (c + a) d := by
  apply BitVec.eq_of_getLsbD_eq
  intro i hi
  simp only [BitVec.getLsbD_extractLsb', hi, decide_true, Bool.true_and, Nat.add_assoc]
  rw [decide_eq_true (by omega), Bool.true_and]

/-- Access W of 20_memory.md R43 always succeeds and stores the four bytes. -/
theorem memWrite_frame (m : Memory) (w : Frame) : memWrite m 0 4 w = .next (loadFrame m w) := by
  have h1 : (((w.extractLsb' 8 24).extractLsb' 8 16).extractLsb' 8 8).extractLsb' 0 8 = w.extractLsb' 24 8 := by
    simp [extract_extract]
  have h2 : ((w.extractLsb' 8 24).extractLsb' 8 16).extractLsb' 0 8 = w.extractLsb' 16 8 := by
    simp [extract_extract]
  have h3 : (w.extractLsb' 8 24).extractLsb' 0 8 = w.extractLsb' 8 8 := by simp [extract_extract]
  simp only [memWrite, writeByte, loadFrame, Config.frameBytes, Nat.zero_add, Nat.reduceMul, Nat.reduceLT, if_true,
    andThen_next, h1, h2, h3]

theorem read_loadFrame_0 (m : Memory) (w : Frame) : readByte (loadFrame m w) 0 = .next (w.extractLsb' 24 8) := by
  simp [loadFrame, read_insert_other, read_insert_same]
theorem read_loadFrame_1 (m : Memory) (w : Frame) : readByte (loadFrame m w) 1 = .next (w.extractLsb' 16 8) := by
  simp [loadFrame, read_insert_other, read_insert_same]
theorem read_loadFrame_2 (m : Memory) (w : Frame) : readByte (loadFrame m w) 2 = .next (w.extractLsb' 8 8) := by
  simp [loadFrame, read_insert_other, read_insert_same]
theorem read_loadFrame_3 (m : Memory) (w : Frame) : readByte (loadFrame m w) 3 = .next (w.extractLsb' 0 8) := by
  simp [loadFrame, read_insert_same]

theorem read_loadFrame_outside (m : Memory) (w : Frame) {a : Nat} (h : 4 ≤ a) :
    readByte (loadFrame m w) a = readByte m a := by
  rw [read_outside _ h, read_outside _ h]

theorem byte_joined (b : Byte) : (0#0 ++ b : BitVec (0 + 8)) = b := by
  apply BitVec.eq_of_getLsbD_eq
  intro i hi
  rw [BitVec.getLsbD_append, if_pos (by omega)]

theorem upper_joined (w : Frame) :
    (0#0 ++ w.extractLsb' 24 8 ++ w.extractLsb' 16 8 : BitVec (0 + 8 + 8)) = w.extractLsb' 16 16 := by
  rw [byte_joined]
  exact BitVec.extractLsb'_append_extractLsb'_eq_extractLsb' rfl

theorem lower_joined (w : Frame) :
    (0#0 ++ w.extractLsb' 8 8 ++ w.extractLsb' 0 8 : BitVec (0 + 8 + 8)) = w.extractLsb' 0 16 := by
  rw [byte_joined]
  exact BitVec.extractLsb'_append_extractLsb'_eq_extractLsb' rfl

theorem frame_joined (w : Frame) :
    (0#0 ++ w.extractLsb' 24 8 ++ w.extractLsb' 16 8 ++ w.extractLsb' 8 8 ++ w.extractLsb' 0 8 : BitVec (0 + 8 + 8 + 8 + 8)) = w := by
  apply BitVec.eq_of_getLsbD_eq
  intro i hi
  simp only [BitVec.getLsbD_append, BitVec.getLsbD_extractLsb']
  repeat' split
  all_goals (try rw [decide_eq_true (by omega), Bool.true_and]); try (congr 1; omega)
  all_goals omega

/-- Access A1: byte 3 after the store. -/
theorem memRead_byte3 (m : Memory) (w : Frame) : memRead (loadFrame m w) 3 1 = .next (w.extractLsb' 0 8) := by
  simp only [memRead, andThen_next, Nat.add_zero, read_loadFrame_3]
  exact congrArg Host.Outcome.next (byte_joined _)

/-- Access A2: byte 1 after the store. -/
theorem memRead_byte1 (m : Memory) (w : Frame) : memRead (loadFrame m w) 1 1 = .next (w.extractLsb' 16 8) := by
  simp only [memRead, andThen_next, Nat.add_zero, read_loadFrame_1]
  exact congrArg Host.Outcome.next (byte_joined _)

/-- Access A3: the upper half after the store. -/
theorem memRead_upper (m : Memory) (w : Frame) : memRead (loadFrame m w) 0 2 = .next (w.extractLsb' 16 16) := by
  simp only [memRead, andThen_next, Nat.add_zero, Nat.zero_add, read_loadFrame_0, read_loadFrame_1]
  exact congrArg Host.Outcome.next (upper_joined w)

/-- Access A4: the lower half after the store. -/
theorem memRead_lower (m : Memory) (w : Frame) : memRead (loadFrame m w) 2 2 = .next (w.extractLsb' 0 16) := by
  simp only [memRead, andThen_next, Nat.add_zero, Nat.reduceAdd, read_loadFrame_2, read_loadFrame_3]
  exact congrArg Host.Outcome.next (lower_joined w)

/-- The 32-bit view after the store: `MemRead(0, 4) = FRAME`. -/
theorem frameOf_loadFrame (m : Memory) (w : Frame) : frameOf (loadFrame m w) = .next w := by
  simp only [frameOf, memRead, andThen_next, Nat.add_zero, Nat.zero_add, read_loadFrame_0, read_loadFrame_1,
    read_loadFrame_2, read_loadFrame_3]
  exact congrArg Host.Outcome.next (frame_joined w)

theorem loadFrame_wf {m : Memory} (w : Frame) (h : Memory.wf m = true) : Memory.wf (loadFrame m w) = true :=
  memWrite_keeps_wf (memWrite_frame m w) h

end Sys2Proof.Machine
end

