-- ==== Sys2Proof/Laws/PerInstr.lean ====
section
/-! SUPPORT. Facts about every instruction as syntax, one lemma per constructor. -/

namespace Sys2Proof.Laws.RoundTrip

/-- The command word of a form decodes to that form, and its byte too, whatever bytes follow. -/
def Statement (i : Instr) : Prop := decodeCmd (encodeCmd i) = i ∧ ∀ rest, decode (encode i ++ rest) = .ok (i, rest)

theorem readSingle : Statement .readSingle := ⟨by decide, fun _ => rfl⟩
theorem readSingleRaw : Statement .readSingleRaw := ⟨by decide, fun _ => rfl⟩
theorem readPair : Statement .readPair := ⟨by decide, fun _ => rfl⟩
theorem readPairRaw : Statement .readPairRaw := ⟨by decide, fun _ => rfl⟩

end Sys2Proof.Laws.RoundTrip
end

