-- ==== Sys2Proof/Laws/State.lean ====
section
/-! SUPPORT. One lemma per field per update of the state, so that no proof unfolds a record update. -/

namespace Sys2Proof.Machine

@[simp] theorem clearResults_buf (s : State) : (clearResults s).buf = s.buf := rfl
@[simp] theorem clearResults_cmd (s : State) : (clearResults s).cmd = s.cmd := rfl
@[simp] theorem clearResults_x0 (s : State) : (clearResults s).x0 = none := rfl
@[simp] theorem clearResults_x1 (s : State) : (clearResults s).x1 = none := rfl
@[simp] theorem clearResults_f0 (s : State) : (clearResults s).f0 = none := rfl
@[simp] theorem clearResults_f1 (s : State) : (clearResults s).f1 = none := rfl
@[simp] theorem clearResults_status (s : State) : (clearResults s).status = s.status := rfl
@[simp] theorem clearResults_cs (s : State) : (clearResults s).cs = s.cs := rfl
@[simp] theorem clearResults_trace (s : State) : (clearResults s).trace = s.trace := rfl
@[simp] theorem clearResults_errValue (s : State) : (clearResults s).errValue = s.errValue := rfl
@[simp] theorem clearResults_bus (s : State) : (clearResults s).bus = s.bus := rfl
@[simp] theorem clearResults_program (s : State) : (clearResults s).program = s.program := rfl
@[simp] theorem clearResults_draws (s : State) : (clearResults s).draws = s.draws := rfl

@[simp] theorem setX0_buf (v : Word) (s : State) : (setX0 v s).buf = s.buf := rfl
@[simp] theorem setX0_cmd (v : Word) (s : State) : (setX0 v s).cmd = s.cmd := rfl
@[simp] theorem setX0_x0 (v : Word) (s : State) : (setX0 v s).x0 = some v := rfl
@[simp] theorem setX0_x1 (v : Word) (s : State) : (setX0 v s).x1 = s.x1 := rfl
@[simp] theorem setX0_f0 (v : Word) (s : State) : (setX0 v s).f0 = s.f0 := rfl
@[simp] theorem setX0_f1 (v : Word) (s : State) : (setX0 v s).f1 = s.f1 := rfl
@[simp] theorem setX0_status (v : Word) (s : State) : (setX0 v s).status = s.status := rfl
@[simp] theorem setX0_cs (v : Word) (s : State) : (setX0 v s).cs = s.cs := rfl
@[simp] theorem setX0_trace (v : Word) (s : State) : (setX0 v s).trace = s.trace := rfl
@[simp] theorem setX0_errValue (v : Word) (s : State) : (setX0 v s).errValue = s.errValue := rfl
@[simp] theorem setX0_bus (v : Word) (s : State) : (setX0 v s).bus = s.bus := rfl
@[simp] theorem setX0_program (v : Word) (s : State) : (setX0 v s).program = s.program := rfl
@[simp] theorem setX0_draws (v : Word) (s : State) : (setX0 v s).draws = s.draws := rfl

@[simp] theorem setX1_buf (v : Word) (s : State) : (setX1 v s).buf = s.buf := rfl
@[simp] theorem setX1_cmd (v : Word) (s : State) : (setX1 v s).cmd = s.cmd := rfl
@[simp] theorem setX1_x0 (v : Word) (s : State) : (setX1 v s).x0 = s.x0 := rfl
@[simp] theorem setX1_x1 (v : Word) (s : State) : (setX1 v s).x1 = some v := rfl
@[simp] theorem setX1_f0 (v : Word) (s : State) : (setX1 v s).f0 = s.f0 := rfl
@[simp] theorem setX1_f1 (v : Word) (s : State) : (setX1 v s).f1 = s.f1 := rfl
@[simp] theorem setX1_status (v : Word) (s : State) : (setX1 v s).status = s.status := rfl
@[simp] theorem setX1_cs (v : Word) (s : State) : (setX1 v s).cs = s.cs := rfl
@[simp] theorem setX1_trace (v : Word) (s : State) : (setX1 v s).trace = s.trace := rfl
@[simp] theorem setX1_errValue (v : Word) (s : State) : (setX1 v s).errValue = s.errValue := rfl
@[simp] theorem setX1_bus (v : Word) (s : State) : (setX1 v s).bus = s.bus := rfl
@[simp] theorem setX1_program (v : Word) (s : State) : (setX1 v s).program = s.program := rfl
@[simp] theorem setX1_draws (v : Word) (s : State) : (setX1 v s).draws = s.draws := rfl

@[simp] theorem setF0_buf (v : F64) (s : State) : (setF0 v s).buf = s.buf := rfl
@[simp] theorem setF0_cmd (v : F64) (s : State) : (setF0 v s).cmd = s.cmd := rfl
@[simp] theorem setF0_x0 (v : F64) (s : State) : (setF0 v s).x0 = s.x0 := rfl
@[simp] theorem setF0_x1 (v : F64) (s : State) : (setF0 v s).x1 = s.x1 := rfl
@[simp] theorem setF0_f0 (v : F64) (s : State) : (setF0 v s).f0 = some v := rfl
@[simp] theorem setF0_f1 (v : F64) (s : State) : (setF0 v s).f1 = s.f1 := rfl
@[simp] theorem setF0_status (v : F64) (s : State) : (setF0 v s).status = s.status := rfl
@[simp] theorem setF0_cs (v : F64) (s : State) : (setF0 v s).cs = s.cs := rfl
@[simp] theorem setF0_trace (v : F64) (s : State) : (setF0 v s).trace = s.trace := rfl
@[simp] theorem setF0_errValue (v : F64) (s : State) : (setF0 v s).errValue = s.errValue := rfl
@[simp] theorem setF0_bus (v : F64) (s : State) : (setF0 v s).bus = s.bus := rfl
@[simp] theorem setF0_program (v : F64) (s : State) : (setF0 v s).program = s.program := rfl
@[simp] theorem setF0_draws (v : F64) (s : State) : (setF0 v s).draws = s.draws := rfl

@[simp] theorem setF1_buf (v : F64) (s : State) : (setF1 v s).buf = s.buf := rfl
@[simp] theorem setF1_cmd (v : F64) (s : State) : (setF1 v s).cmd = s.cmd := rfl
@[simp] theorem setF1_x0 (v : F64) (s : State) : (setF1 v s).x0 = s.x0 := rfl
@[simp] theorem setF1_x1 (v : F64) (s : State) : (setF1 v s).x1 = s.x1 := rfl
@[simp] theorem setF1_f0 (v : F64) (s : State) : (setF1 v s).f0 = s.f0 := rfl
@[simp] theorem setF1_f1 (v : F64) (s : State) : (setF1 v s).f1 = some v := rfl
@[simp] theorem setF1_status (v : F64) (s : State) : (setF1 v s).status = s.status := rfl
@[simp] theorem setF1_cs (v : F64) (s : State) : (setF1 v s).cs = s.cs := rfl
@[simp] theorem setF1_trace (v : F64) (s : State) : (setF1 v s).trace = s.trace := rfl
@[simp] theorem setF1_errValue (v : F64) (s : State) : (setF1 v s).errValue = s.errValue := rfl
@[simp] theorem setF1_bus (v : F64) (s : State) : (setF1 v s).bus = s.bus := rfl
@[simp] theorem setF1_program (v : F64) (s : State) : (setF1 v s).program = s.program := rfl
@[simp] theorem setF1_draws (v : F64) (s : State) : (setF1 v s).draws = s.draws := rfl

@[simp] theorem beginRead_buf (c : Cmd) (s : State) : (beginRead c s).buf = s.buf := rfl
@[simp] theorem beginRead_cmd (c : Cmd) (s : State) : (beginRead c s).cmd = s.cmd := rfl
@[simp] theorem beginRead_x0 (c : Cmd) (s : State) : (beginRead c s).x0 = none := rfl
@[simp] theorem beginRead_x1 (c : Cmd) (s : State) : (beginRead c s).x1 = none := rfl
@[simp] theorem beginRead_f0 (c : Cmd) (s : State) : (beginRead c s).f0 = none := rfl
@[simp] theorem beginRead_f1 (c : Cmd) (s : State) : (beginRead c s).f1 = none := rfl
@[simp] theorem beginRead_status (c : Cmd) (s : State) : (beginRead c s).status = withStart s.status c := rfl
@[simp] theorem beginRead_cs (c : Cmd) (s : State) : (beginRead c s).cs = s.cs := rfl
@[simp] theorem beginRead_trace (c : Cmd) (s : State) : (beginRead c s).trace = s.trace := rfl
@[simp] theorem beginRead_errValue (c : Cmd) (s : State) : (beginRead c s).errValue = none := rfl
@[simp] theorem beginRead_bus (c : Cmd) (s : State) : (beginRead c s).bus = s.bus := rfl
@[simp] theorem beginRead_program (c : Cmd) (s : State) : (beginRead c s).program = s.program := rfl
@[simp] theorem beginRead_draws (c : Cmd) (s : State) : (beginRead c s).draws = s.draws := rfl

@[simp] theorem succeed_buf (s : State) : (succeed s).buf = s.buf := rfl
@[simp] theorem succeed_cmd (s : State) : (succeed s).cmd = s.cmd := rfl
@[simp] theorem succeed_x0 (s : State) : (succeed s).x0 = s.x0 := rfl
@[simp] theorem succeed_x1 (s : State) : (succeed s).x1 = s.x1 := rfl
@[simp] theorem succeed_f0 (s : State) : (succeed s).f0 = s.f0 := rfl
@[simp] theorem succeed_f1 (s : State) : (succeed s).f1 = s.f1 := rfl
@[simp] theorem succeed_status (s : State) : (succeed s).status = withCode s.status codeOk := rfl
@[simp] theorem succeed_cs (s : State) : (succeed s).cs = s.cs := rfl
@[simp] theorem succeed_trace (s : State) : (succeed s).trace = s.trace := rfl
@[simp] theorem succeed_errValue (s : State) : (succeed s).errValue = s.errValue := rfl
@[simp] theorem succeed_bus (s : State) : (succeed s).bus = s.bus := rfl
@[simp] theorem succeed_program (s : State) : (succeed s).program = s.program := rfl
@[simp] theorem succeed_draws (s : State) : (succeed s).draws = s.draws := rfl

@[simp] theorem raiseError_buf (k : ErrorKind) (s : State) : (raiseError k s).buf = s.buf := rfl
@[simp] theorem raiseError_cmd (k : ErrorKind) (s : State) : (raiseError k s).cmd = s.cmd := rfl
@[simp] theorem raiseError_x0 (k : ErrorKind) (s : State) : (raiseError k s).x0 = s.x0 := rfl
@[simp] theorem raiseError_x1 (k : ErrorKind) (s : State) : (raiseError k s).x1 = s.x1 := rfl
@[simp] theorem raiseError_f0 (k : ErrorKind) (s : State) : (raiseError k s).f0 = s.f0 := rfl
@[simp] theorem raiseError_f1 (k : ErrorKind) (s : State) : (raiseError k s).f1 = s.f1 := rfl
@[simp] theorem raiseError_status (k : ErrorKind) (s : State) : (raiseError k s).status = withCode s.status (errorCode k) := rfl
@[simp] theorem raiseError_cs (k : ErrorKind) (s : State) : (raiseError k s).cs = s.cs := rfl
@[simp] theorem raiseError_trace (k : ErrorKind) (s : State) : (raiseError k s).trace = s.trace := rfl
@[simp] theorem raiseError_errValue (k : ErrorKind) (s : State) : (raiseError k s).errValue = handedValue k := rfl
@[simp] theorem raiseError_bus (k : ErrorKind) (s : State) : (raiseError k s).bus = s.bus := rfl
@[simp] theorem raiseError_program (k : ErrorKind) (s : State) : (raiseError k s).program = s.program := rfl
@[simp] theorem raiseError_draws (k : ErrorKind) (s : State) : (raiseError k s).draws = s.draws := rfl

@[simp] theorem setLow_buf (s : State) : (setLow s).buf = s.buf := rfl
@[simp] theorem setLow_cmd (s : State) : (setLow s).cmd = s.cmd := rfl
@[simp] theorem setLow_x0 (s : State) : (setLow s).x0 = s.x0 := rfl
@[simp] theorem setLow_x1 (s : State) : (setLow s).x1 = s.x1 := rfl
@[simp] theorem setLow_f0 (s : State) : (setLow s).f0 = s.f0 := rfl
@[simp] theorem setLow_f1 (s : State) : (setLow s).f1 = s.f1 := rfl
@[simp] theorem setLow_status (s : State) : (setLow s).status = s.status := rfl
@[simp] theorem setLow_cs (s : State) : (setLow s).cs = .low := rfl
@[simp] theorem setLow_trace (s : State) : (setLow s).trace = s.trace := rfl
@[simp] theorem setLow_errValue (s : State) : (setLow s).errValue = s.errValue := rfl
@[simp] theorem setLow_bus (s : State) : (setLow s).bus = s.bus := rfl
@[simp] theorem setLow_program (s : State) : (setLow s).program = s.program := rfl
@[simp] theorem setLow_draws (s : State) : (setLow s).draws = s.draws := rfl

@[simp] theorem setHigh_buf (s : State) : (setHigh s).buf = s.buf := rfl
@[simp] theorem setHigh_cmd (s : State) : (setHigh s).cmd = s.cmd := rfl
@[simp] theorem setHigh_x0 (s : State) : (setHigh s).x0 = s.x0 := rfl
@[simp] theorem setHigh_x1 (s : State) : (setHigh s).x1 = s.x1 := rfl
@[simp] theorem setHigh_f0 (s : State) : (setHigh s).f0 = s.f0 := rfl
@[simp] theorem setHigh_f1 (s : State) : (setHigh s).f1 = s.f1 := rfl
@[simp] theorem setHigh_status (s : State) : (setHigh s).status = s.status := rfl
@[simp] theorem setHigh_cs (s : State) : (setHigh s).cs = .high := rfl
@[simp] theorem setHigh_trace (s : State) : (setHigh s).trace = s.trace := rfl
@[simp] theorem setHigh_errValue (s : State) : (setHigh s).errValue = s.errValue := rfl
@[simp] theorem setHigh_bus (s : State) : (setHigh s).bus = s.bus := rfl
@[simp] theorem setHigh_program (s : State) : (setHigh s).program = s.program := rfl
@[simp] theorem setHigh_draws (s : State) : (setHigh s).draws = s.draws := rfl

@[simp] theorem logEvent_buf (e : Event) (s : State) : (logEvent e s).buf = s.buf := rfl
@[simp] theorem logEvent_cmd (e : Event) (s : State) : (logEvent e s).cmd = s.cmd := rfl
@[simp] theorem logEvent_x0 (e : Event) (s : State) : (logEvent e s).x0 = s.x0 := rfl
@[simp] theorem logEvent_x1 (e : Event) (s : State) : (logEvent e s).x1 = s.x1 := rfl
@[simp] theorem logEvent_f0 (e : Event) (s : State) : (logEvent e s).f0 = s.f0 := rfl
@[simp] theorem logEvent_f1 (e : Event) (s : State) : (logEvent e s).f1 = s.f1 := rfl
@[simp] theorem logEvent_status (e : Event) (s : State) : (logEvent e s).status = s.status := rfl
@[simp] theorem logEvent_cs (e : Event) (s : State) : (logEvent e s).cs = s.cs := rfl
@[simp] theorem logEvent_trace (e : Event) (s : State) : (logEvent e s).trace = s.trace ++ [e] := rfl
@[simp] theorem logEvent_errValue (e : Event) (s : State) : (logEvent e s).errValue = s.errValue := rfl
@[simp] theorem logEvent_bus (e : Event) (s : State) : (logEvent e s).bus = s.bus := rfl
@[simp] theorem logEvent_program (e : Event) (s : State) : (logEvent e s).program = s.program := rfl
@[simp] theorem logEvent_draws (e : Event) (s : State) : (logEvent e s).draws = s.draws := rfl

@[simp] theorem hostWriteCmd_buf (c : Cmd) (s : State) : (hostWriteCmd c s).buf = s.buf := rfl
@[simp] theorem hostWriteCmd_cmd (c : Cmd) (s : State) : (hostWriteCmd c s).cmd = c := rfl
@[simp] theorem hostWriteCmd_x0 (c : Cmd) (s : State) : (hostWriteCmd c s).x0 = s.x0 := rfl
@[simp] theorem hostWriteCmd_x1 (c : Cmd) (s : State) : (hostWriteCmd c s).x1 = s.x1 := rfl
@[simp] theorem hostWriteCmd_f0 (c : Cmd) (s : State) : (hostWriteCmd c s).f0 = s.f0 := rfl
@[simp] theorem hostWriteCmd_f1 (c : Cmd) (s : State) : (hostWriteCmd c s).f1 = s.f1 := rfl
@[simp] theorem hostWriteCmd_status (c : Cmd) (s : State) : (hostWriteCmd c s).status = s.status := rfl
@[simp] theorem hostWriteCmd_cs (c : Cmd) (s : State) : (hostWriteCmd c s).cs = s.cs := rfl
@[simp] theorem hostWriteCmd_trace (c : Cmd) (s : State) : (hostWriteCmd c s).trace = s.trace := rfl
@[simp] theorem hostWriteCmd_errValue (c : Cmd) (s : State) : (hostWriteCmd c s).errValue = s.errValue := rfl
@[simp] theorem hostWriteCmd_bus (c : Cmd) (s : State) : (hostWriteCmd c s).bus = s.bus := rfl
@[simp] theorem hostWriteCmd_program (c : Cmd) (s : State) : (hostWriteCmd c s).program = s.program := rfl
@[simp] theorem hostWriteCmd_draws (c : Cmd) (s : State) : (hostWriteCmd c s).draws = s.draws := rfl

end Sys2Proof.Machine
end

