-- ==== Sys2Proof/Laws/Status.lean ====
section
/-! SUPPORT. The fields of `STATUS` after each write (10_state.md R26). -/

namespace Sys2Proof.Machine

@[simp] theorem statusCode_pack (c : Cmd) (d : Bool) (k : BitVec 3) : statusCode (packStatus c d k) = k := by
  revert c d k; decide
@[simp] theorem statusDone_pack (c : Cmd) (d : Bool) (k : BitVec 3) : statusDone (packStatus c d k) = d := by
  revert c d k; decide
@[simp] theorem statusShape_pack (c : Cmd) (d : Bool) (k : BitVec 3) : statusShape (packStatus c d k) = c := by
  revert c d k; decide

/-- The three fields are the whole register. -/
theorem pack_fields (w : StatusWord) : packStatus (statusShape w) (statusDone w) (statusCode w) = w := by
  revert w; decide

@[simp] theorem statusCode_withCode (w : StatusWord) (k : BitVec 3) : statusCode (withCode w k) = k := by simp [withCode]
@[simp] theorem statusDone_withCode (w : StatusWord) (k : BitVec 3) : statusDone (withCode w k) = statusDone w := by
  simp [withCode]
@[simp] theorem statusShape_withCode (w : StatusWord) (k : BitVec 3) : statusShape (withCode w k) = statusShape w := by
  simp [withCode]
@[simp] theorem statusCode_withStart (w : StatusWord) (c : Cmd) : statusCode (withStart w c) = statusCode w := by
  simp [withStart]
@[simp] theorem statusDone_withStart (w : StatusWord) (c : Cmd) : statusDone (withStart w c) = true := by simp [withStart]
@[simp] theorem statusShape_withStart (w : StatusWord) (c : Cmd) : statusShape (withStart w c) = c := by simp [withStart]

/-- What the start and the end of a `read` make of the register together: nothing of the old content is left. -/
@[simp] theorem withCode_withStart (w : StatusWord) (c : Cmd) (k : BitVec 3) :
    withCode (withStart w c) k = packStatus c true k := by simp [withCode]

end Sys2Proof.Machine
end

