-- ==== Sys2Proof/Laws/Read.lean ====
section
/-! SUPPORT. What `Read` (40_read_operations.md R80) can do, said once: a failed transfer, a faulted frame, or a decode. Proofs about a
form cite these and never unfold the sequence. -/

namespace Sys2Proof.Machine

/-- The state between the release of chip-select and the first test: everything every `read` does whatever the outcome. -/
def loaded (resp : BusResponse) (cmd : Cmd) (s : State) : State :=
  { s with
    buf := loadFrame s.buf (transferredFrame resp s.draws)
    x0 := none
    x1 := none
    f0 := none
    f1 := none
    status := withStart s.status cmd
    cs := .high
    trace := s.trace ++ bracket
    errValue := none
    bus := none
    draws := s.draws + 1 }

/-- The bracketed transfer always succeeds. -/
theorem transaction_beginRead (resp : BusResponse) (cmd : Cmd) (s : State) :
    transaction resp (beginRead cmd s) = .next (loaded resp cmd s) := by
  simp [transaction, transfer, memWrite_frame, loaded, logEvent, setLow, setHigh, beginRead, clearResults, bracket]

theorem checkFaults_loadFrame (m : Memory) (w : Frame) : checkFaults (loadFrame m w) = .next (faultCheckFrame w) := by
  simp only [checkFaults, memRead_byte3, memRead_byte1, andThen_next]
  rfl

theorem readUpper_loadFrame (m : Memory) (w : Frame) : readUpper (loadFrame m w) = .next (sint16 (w.extractLsb' 16 16)) := by
  simp only [readUpper, memRead_upper, andThen_next]

theorem readLower_loadFrame (m : Memory) (w : Frame) : readLower (loadFrame m w) = .next (sint16 (w.extractLsb' 0 16)) := by
  simp only [readLower, memRead_lower, andThen_next]

/-- `tc_raw` of a frame, as the machine computes it: half, sign, shift (42_fault_check_and_extract.md R122, R123). -/
def rawTC (w : Frame) : Int := extractTC (sint16 (w.extractLsb' 16 16))

/-- `int_raw` of a frame, as the machine computes it (42_fault_check_and_extract.md R122, R124). -/
def rawINT (w : Frame) : Int := extractINT (sint16 (w.extractLsb' 0 16))

variable {cmd : Cmd} {deliver : Int → Int → State → State} {s : State}

/-- A failed transfer: `TransportError`, nothing decoded (41_transaction_sequence.md R103). -/
theorem runRead_err {e : TransportFault} (h : nextResponse s = .err e) :
    runRead cmd deliver s = .next (raiseError (.transportError e) (loaded (.err e) cmd s)) := by
  simp only [runRead, h, transaction_beginRead, andThen_next]

/-- A faulted frame: the first kind is raised, nothing extracted (42_fault_check_and_extract.md R121). -/
theorem runRead_fault {b0 b1 b2 b3 : Byte} {k : ErrorKind} (h : nextResponse s = .ok b0 b1 b2 b3)
    (hk : faultCheckFrame (b0 ++ b1 ++ b2 ++ b3) = some k) :
    runRead cmd deliver s = .next (raiseError k (loaded (.ok b0 b1 b2 b3) cmd s)) := by
  have hb : (loaded (.ok b0 b1 b2 b3) cmd s).buf = loadFrame s.buf (b0 ++ b1 ++ b2 ++ b3) := rfl
  simp only [runRead, h, transaction_beginRead, andThen_next, decodeFrameInto, hb, checkFaults_loadFrame, hk]

/-- A frame without a fault bit: both raw values, code 0, the form's own writes (40_read_operations.md R80). -/
theorem runRead_decodes {b0 b1 b2 b3 : Byte} (h : nextResponse s = .ok b0 b1 b2 b3)
    (hk : faultCheckFrame (b0 ++ b1 ++ b2 ++ b3) = none) :
    runRead cmd deliver s = .next (deliver (rawTC (b0 ++ b1 ++ b2 ++ b3)) (rawINT (b0 ++ b1 ++ b2 ++ b3))
      (succeed (loaded (.ok b0 b1 b2 b3) cmd s))) := by
  have hb : (loaded (.ok b0 b1 b2 b3) cmd s).buf = loadFrame s.buf (b0 ++ b1 ++ b2 ++ b3) := rfl
  simp only [runRead, h, transaction_beginRead, andThen_next, decodeFrameInto, hb, checkFaults_loadFrame, hk,
    readUpper_loadFrame, readLower_loadFrame]
  rfl

/-- The three ways of a `read`; there is no other, and each answers a next state. -/
theorem runRead_cases (cmd : Cmd) (deliver : Int → Int → State → State) (s : State) :
    (∃ e, nextResponse s = .err e ∧
      runRead cmd deliver s = .next (raiseError (.transportError e) (loaded (.err e) cmd s))) ∨
    (∃ b0 b1 b2 b3 k, nextResponse s = .ok b0 b1 b2 b3 ∧ faultCheckFrame (b0 ++ b1 ++ b2 ++ b3) = some k ∧
      runRead cmd deliver s = .next (raiseError k (loaded (.ok b0 b1 b2 b3) cmd s))) ∨
    (∃ b0 b1 b2 b3, nextResponse s = .ok b0 b1 b2 b3 ∧ faultCheckFrame (b0 ++ b1 ++ b2 ++ b3) = none ∧
      runRead cmd deliver s = .next (deliver (rawTC (b0 ++ b1 ++ b2 ++ b3)) (rawINT (b0 ++ b1 ++ b2 ++ b3))
        (succeed (loaded (.ok b0 b1 b2 b3) cmd s)))) := by
  cases h : nextResponse s with
  | err e => exact .inl ⟨e, rfl, runRead_err h⟩
  | ok b0 b1 b2 b3 =>
    cases hk : faultCheckFrame (b0 ++ b1 ++ b2 ++ b3) with
    | some k => exact .inr (.inl ⟨b0, b1, b2, b3, k, rfl, hk, runRead_fault h hk⟩)
    | none => exact .inr (.inr ⟨b0, b1, b2, b3, rfl, hk, runRead_decodes h hk⟩)

/-- A form's own writes. -/
def deliverOf : Instr → Int → Int → State → State
  | .readSingle => deliverSingle
  | .readSingleRaw => deliverSingleRaw
  | .readPair => deliverPair
  | .readPairRaw => deliverPairRaw

/-- Every form is the one sequence with its command word and its own writes. -/
theorem exec_eq_runRead (i : Instr) (s : State) : exec i s = runRead (encodeCmd i) (deliverOf i) s := by
  cases i <;> rfl

/-- The fault check never reports a transport error. -/
theorem faultCheckFrame_kinds {w : Frame} {k : ErrorKind} (h : faultCheckFrame w = some k) : handedValue k = none := by
  unfold faultCheckFrame faultCheck at h
  split at h
  · cases h; rfl
  · split at h
    · cases h; rfl
    · split at h
      · cases h; rfl
      · split at h <;> cases h; rfl

end Sys2Proof.Machine
end

