-- ==== Sys2Proof/Laws/Step.lean ====
section
/-! SUPPORT. What one step can do, and the induction over a run packaged once. -/

namespace Sys2Proof.Machine

theorem fetchCall_idle {s : State} (h : s.program = []) : fetchCall s = none := by
  simp [fetchCall, h]

theorem fetchCall_call {s : State} {c : HostCall} {rest : List HostCall} (h : s.program = c :: rest) :
    fetchCall s = some (decodeCmd c.cmd, hostWriteCmd c.cmd { s with program := rest, bus := some c.resp }) := by
  simp [fetchCall, h]

/-- A step waits, or runs the form of the host's next call with that call's response. -/
theorem step_cases (s : State) :
    (s.program = [] ∧ step s = .next s) ∨
    (∃ c rest, s.program = c :: rest ∧
      step s = exec (decodeCmd c.cmd) (hostWriteCmd c.cmd { s with program := rest, bus := some c.resp })) := by
  cases h : s.program with
  | nil => exact .inl ⟨rfl, by simp [step, fetchCall_idle h]⟩
  | cons c rest => exact .inr ⟨c, rest, rfl, by simp [step, fetchCall_call h]⟩

/-- A run's first step. -/
theorem run_succ {s t : State} (n : Nat) (h : step s = .next t) :
    Host.Core.run Sys2Proof.core (n + 1) s = Host.Core.run Sys2Proof.core n t := by
  simp only [Host.Core.run, Sys2Proof.core, h]

/-- What every step keeps, every run keeps. -/
theorem run_keeps {P : State → Prop} (hstep : ∀ s t, P s → step s = .next t → P t) :
    ∀ (n : Nat) (s t : State), P s → Host.Core.run Sys2Proof.core n s = .next t → P t
  | 0, s, t, hs, h => by cases h; exact hs
  | n + 1, s, t, hs, h => by
    cases hu : step s with
    | next u =>
      exact run_keeps hstep n u t (hstep s u hs hu) (run_succ n hu ▸ h)
    | fault r => simp [Host.Core.run, Sys2Proof.core, hu] at h
    | refused r => simp [Host.Core.run, Sys2Proof.core, hu] at h

end Sys2Proof.Machine
end

