-- ==== Sys2Proof/Tests/Slice0.lean ====
section
/-! SUPPORT. Tests: expected values from spec/95_test_vectors.md and the rules' worked examples; then one witness for the hypotheses of each
statement. -/

namespace Sys2Proof.Tests

open Sys2Proof.Machine

/-- An error value of the transceiver. -/
def someFault : TransportFault := ⟨0, .inl rfl⟩

/-- The reset state with the next transfer's response fixed (a `BUS` line). -/
def busState (r : BusResponse) : State := { State.reset with bus := some r }

/-- The answer is a next state that passes the check. -/
def passes (o : Access State) (p : State → Bool) : Bool :=
  match o with
  | .next t => p t
  | .fault _ => false
  | .refused _ => false

/-! ### Well-formedness -/

theorem test_wellFormed_refuses_scaled_without_converter : Instr.readSingle.wellFormedOn false = false := by decide
theorem test_wellFormed_refuses_pair_without_converter : Instr.readPair.wellFormedOn false = false := by decide
theorem test_wellFormed_accepts_raw_without_converter : Instr.readPairRaw.wellFormedOn false = true := by decide
theorem test_program_refuses_read_without_bus : programWellFormed [.read .readPair] = false := by decide
theorem test_program_refuses_bus_without_read : programWellFormed [.busErr, .busErr, .read .readPair] = false := by decide
theorem test_program_accepts_pairs : programWellFormed [.busErr, .read .readPair] = true := by decide

/-! ### Decoding, words written out from 30_encoding.md R61, R64 -/

theorem test_decode_readSingle : decode [0b00000000#8] = .ok (.readSingle, []) := by decide
theorem test_decode_readSingleRaw : decode [0b00000010#8] = .ok (.readSingleRaw, []) := by decide
theorem test_decode_readPair : decode [0b00000001#8] = .ok (.readPair, []) := by decide
theorem test_decode_readPairRaw : decode [0b00000011#8] = .ok (.readPairRaw, []) := by decide
theorem test_decode_refuses_wide_word : decode [0b00000100#8] = .error (.notACommandWord 4#8) := by decide
theorem test_decode_refuses_no_byte : decode [] = .error .noByte := by decide
theorem test_decodeFrame_fields : decodeFrame 0xFFFE0011#32 =
    ⟨0b11111111111111#14, true, false, 1#12, false, false, false, true⟩ := by decide

/-! ### Program text, 30_encoding.md R68, R69 -/

theorem test_parse_bus : parseLine "BUS  0C 00 08 00        ; resp".toList = .ok (some (.busOk 0x0C 0x00 0x08 0x00)) := by decide
theorem test_parse_bus_err : parseLine "BUS  ERR".toList = .ok (some .busErr) := by decide
theorem test_parse_comment_line : parseLine "  ; nothing".toList = .ok none := by decide
theorem test_parse_refuses_three_bytes : parseLine "BUS 0C 00 08".toList = .error .unknownStatement := by decide

/-! ### The forms, one step each: vectors S3, S4 and V4 of 95_test_vectors.md -/

/-- S3: frame 0C 00 08 00. -/
theorem test_readSingle_S3 : passes (exec .readSingle (busState (.ok 0x0C 0x00 0x08 0x00)))
    (fun t => t.f0 == some 0x4068000000000000#64 && t.x0 == none && t.f1 == none && t.status == 0x08#6) = true := by decide
/-- V4: frame FC 18 E7 04, the fault bit is in the half the form does not return. -/
theorem test_readSingle_V4_fault : passes (exec .readSingle (busState (.ok 0xFC 0x18 0xE7 0x04)))
    (fun t => t.f0 == none && t.status == 0x0B#6) = true := by decide
/-- S4: frame FF FC 00 00. -/
theorem test_readSingleRaw_S4 : passes (exec .readSingleRaw (busState (.ok 0xFF 0xFC 0x00 0x00)))
    (fun t => t.x0 == some 0xFFFFFFFF#32 && t.x1 == none && t.f0 == none && t.status == 0x28#6) = true := by decide
/-- V4: a transfer failure. -/
theorem test_readSingleRaw_V4_err : passes (exec .readSingleRaw (busState (.err someFault)))
    (fun t => t.x0 == none && t.status == 0x2D#6 && t.errValue == some someFault && t.cs == .high && t.trace == bracket) = true := by decide
/-- V4: frame FC 18 E7 00. -/
theorem test_readPair_V4 : passes (exec .readPair (busState (.ok 0xFC 0x18 0xE7 0x00)))
    (fun t => t.f0 == some 0xC04F400000000000#64 && t.f1 == some 0xC039000000000000#64 && t.x0 == none && t.status == 0x18#6) = true := by
  decide
/-- V1: FAULT alone, with the unnamed bits set. -/
theorem test_readPair_V1_faulty : passes (exec .readPair (busState (.ok 0x00 0x03 0x00 0x08)))
    (fun t => t.f0 == none && t.f1 == none && t.status == 0x1C#6) = true := by decide
/-- V2: frame 01 90 C9 00, halves of different signs. -/
theorem test_readPairRaw_V2 : passes (exec .readPairRaw (busState (.ok 0x01 0x90 0xC9 0x00)))
    (fun t => t.x0 == some 0x00000064#32 && t.x1 == some 0xFFFFFC90#32 && t.f0 == none && t.status == 0x38#6) = true := by decide
/-- PR4 step 3: frame 7F FE 80 08, extremes with the unnamed bits set; floor of -2047.5. -/
theorem test_readPairRaw_PR4 : passes (exec .readPairRaw (busState (.ok 0x7F 0xFE 0x80 0x08)))
    (fun t => t.x0 == some 0x00001FFF#32 && t.x1 == some 0xFFFFF800#32) = true := by decide

/-! ### Shared parts -/

/-- 43_float_conversion.md R146, the examples at the ends of the ranges. -/
theorem test_floatBits_extremes : scaleTC 8191 = 0x409FFF0000000000#64 ∧ scaleTC (-8192) = 0xC0A0000000000000#64 ∧
    scaleINT 2047 = 0x405FFC0000000000#64 ∧ scaleINT (-2048) = 0xC060000000000000#64 ∧ scaleINT 1 = 0x3FB0000000000000#64 := by decide
/-- V1: all four fault bits set, and every bit but them. -/
theorem test_faultCheck_V1 : faultCheckFrame 0x00010007#32 = some .openCircuit ∧ faultCheckFrame 0x00010004#32 = some .shortToPower ∧
    faultCheckFrame 0x00000006#32 = some .shortToGround ∧ faultCheckFrame 0xFFFEFFF8#32 = none := by decide
/-- 10_state.md R26: the place of the three fields. -/
theorem test_status_fields : packStatus 0b10#2 true 5#3 = 0x2D#6 := by decide
/-- The first step from reset after `withFetchWord`: `READ.PAIRRAW` on the zero frame. -/
theorem test_withFetchWord_runs : passes (step (State.reset.withFetchWord 8 3))
    (fun t => t.x0 == some 0#32 && t.x1 == some 0#32 && t.cmd == 0b11#2 && t.status == 0x38#6) = true := by decide
/-- V6: a host read of `x[0]` after reset is a model fault, of `STATUS` is 0. -/
theorem test_host_reads_V6 : hostReadX0 State.reset = .fault (.registerHoldsNone .x0) ∧ hostReadStatus State.reset = 0#6 := ⟨rfl, rfl⟩

/-! ### Witnesses: the hypotheses of each statement are met -/

/-- A buffer that holds the frame 0C 00 08 00. -/
def buf0C : Memory := [(0, 0x0C), (1, 0x00), (2, 0x08), (3, 0x00)]

/-- The state after `READ.SINGLE` of 0C 00 08 00 (95_test_vectors.md S3). -/
def afterSingle : State :=
  { State.reset with buf := buf0C, f0 := some 0x4068000000000000#64, status := 0x08#6, trace := bracket, draws := 1 }

theorem witness_Inv_afterSingle : Inv afterSingle := by
  constructor <;> try decide
  · exact fun _ => ⟨0x0C000800#32, rfl⟩
  · exact ⟨1, by decide⟩
  · constructor <;> decide
  · constructor
    · intro v h; cases h
    · intro v h; cases h
    · intro v h; cases h; exact ⟨768, by decide, by decide, by decide⟩
    · intro v h; cases h

theorem witness_InitialisationResetsTheBlockAndDrivesNothing : afterSingle.cs = .high := rfl
theorem witness_ProgramTextRoundTrip : ∃ (calls : List HostCall) (errs : Nat → TransportFault),
    calls ≠ [] ∧ ∀ k c e, calls[k]? = some c → c.resp = .err e → errs k = e := by
  refine ⟨[⟨0b01#2, .err someFault⟩], fun _ => someFault, by decide, ?_⟩
  intro k c e h hc
  cases k with
  | zero => cases h; cases hc; rfl
  | succ k => cases h
theorem witness_BufferIsBigEndian_write : (0 : Nat) + 4 ≤ 4 ∧ (3 : Nat) + 1 ≤ 4 := by decide
theorem witness_BufferIsBigEndian_read : memRead buf0C 3 1 = .next 0x00#8 ∧ memRead buf0C 0 4 = .next 0x0C000800#32 := ⟨rfl, rfl⟩
theorem witness_BufferIsBigEndian_outside : 0 < 1 ∧ 4 < 4 + 1 ∧ 4 < 1 + 4 := by decide
theorem witness_BufferIsBigEndian_check : readByte buf0C 0 = .next 0x0C ∧ readByte buf0C 1 = .next 0x00 ∧
    readByte buf0C 2 = .next 0x08 ∧ readByte buf0C 3 = .next 0x00 := ⟨rfl, rfl, rfl, rfl⟩
theorem witness_CanonicalBuffersAreEqual : Memory.wf buf0C = true ∧ Memory.wf (insertByte [] 3 0x01#8) = true := by decide
theorem witness_FaultCheckOrder : HoldsFrame buf0C 0x0C000800#32 ∧
    0xFFFEFFF8#32 &&& 0x00010007#32 = 0x00000000#32 &&& 0x00010007#32 := ⟨rfl, by decide⟩
theorem witness_HalvesAreIndependentSignedIntegers :
    HoldsFrame buf0C (0x0C00#16 ++ 0x0800#16) ∧
    HoldsFrame [(0, 0x0C), (1, 0x00), (2, 0x80), (3, 0x00)] (0x0C00#16 ++ 0x8000#16) ∧
    HoldsFrame [(0, 0x80), (1, 0x00), (2, 0x08), (3, 0x00)] (0x8000#16 ++ 0x0800#16) ∧
    HoldsFrame [(0, 0xFF), (1, 0xFC), (2, 0x00), (3, 0x10)] 0xFFFC0010#32 ∧
    HoldsFrame [(0, 0x01), (1, 0x90), (2, 0xC9), (3, 0x00)] 0x0190C900#32 := ⟨rfl, rfl, rfl, rfl, rfl⟩
/-- The ends of the ranges that RawValuesFillTheirRanges, ScalingDividesAndMultipliesExactly, ConverterMakesNoSpecialValue and
ScalingIsAnExponentAdjustment quantify over. -/
theorem witness_RawRanges : (-8192 : Int) ≤ -8192 ∧ (-8192 : Int) ≤ 8191 ∧ (8191 : Int) ≤ 8191 ∧ (8191 : Int) ≠ 0 ∧
    (-2048 : Int) ≤ -2048 ∧ (-2048 : Int) ≤ 2047 ∧ (2047 : Int) ≤ 2047 ∧ (2047 : Int) ≠ 0 := by decide
theorem witness_RawResultsAreSignExtended : (14 ≤ 14 ∧ 14 < 32) ∧ (14 ≤ 31 ∧ 31 < 32) ∧ (12 ≤ 12 ∧ 12 < 32) := by decide
theorem witness_ScaledPatternIsUnique_zero : floatValue 0x8000000000000000#64 = some (((0 : Int) : ℚ) / 4) := by
  rw [floatValue, if_neg (by decide), if_pos (by decide)]; norm_num
theorem witness_ScaledPatternIsUnique_one : floatValue 0x3FB0000000000000#64 = some (((1 : Int) : ℚ) / 16) := by
  rw [floatValue, if_pos (by decide), show signBit 0x3FB0000000000000#64 = false by decide,
    show fracField 0x3FB0000000000000#64 = 0 by decide, show expField 0x3FB0000000000000#64 = 1019 by decide]
  norm_num
theorem witness_ReadResult_decodes : nextResponse (busState (.ok 0x0C 0x00 0x08 0x00)) = .ok 0x0C 0x00 0x08 0x00 ∧
    (0x0C#8 ++ 0x00#8 ++ 0x08#8 ++ 0x00#8 : Frame) &&& 0x00010007#32 = 0#32 := ⟨rfl, by decide⟩
theorem witness_ReadResult_errors : errorOf (nextResponse (busState (.ok 0xFC 0x18 0xE7 0x04))) = some .shortToPower ∧
    errorOf (nextResponse (busState (.err someFault))) = some (.transportError someFault) := by decide
theorem witness_ReadSingleRawResult_negative : fieldTC 0xFFFC0000#32 < 0 := by decide
theorem witness_ReadSingleRawResult_dropped : 4 * (-1) ≤ sint16 0xFFFE#16 ∧ sint16 0xFFFE#16 ≤ 4 * (-1) + 3 := by decide
theorem witness_ReadPairRawResult_dropped : sint16 0xFFF0#16 = 16 * (-1) ∧ sint16 0xFFF8#16 = 16 * (-1) + 8 := by decide
theorem witness_ReadFrameOfEveryForm : ∃ t, exec .readPairRaw (busState (.ok 0x0C 0x00 0x08 0x00)) = .next t := ⟨_, rfl⟩
theorem witness_SuccessfulTransferStoresFourBytes : nextResponse (busState (.ok 1 2 3 4)) = .ok 1 2 3 4 := rfl
theorem witness_FailedTransferIsNeverDecoded : nextResponse (busState (.err someFault)) = .err someFault := rfl
/-- One frame for each row of the table of 60_exceptions.md R161. -/
theorem witness_ErrorsAreReportedInPriority :
    (0xFFFFFFFF#32).getLsbD 0 = true ∧ ((0x00010006#32).getLsbD 0 = false ∧ (0x00010006#32).getLsbD 1 = true) ∧
    ((0x00010004#32).getLsbD 0 = false ∧ (0x00010004#32).getLsbD 1 = false ∧ (0x00010004#32).getLsbD 2 = true) ∧
    ((0x00010000#32).getLsbD 0 = false ∧ (0x00010000#32).getLsbD 1 = false ∧ (0x00010000#32).getLsbD 2 = false ∧
      (0x00010000#32).getLsbD 16 = true) ∧
    ((0xFFFEFFF8#32).getLsbD 0 = false ∧ (0xFFFEFFF8#32).getLsbD 1 = false ∧ (0xFFFEFFF8#32).getLsbD 2 = false ∧
      (0xFFFEFFF8#32).getLsbD 16 = false) ∧
    nextResponse (busState (.ok 0xFF 0xFE 0xFF 0xF8)) = .ok 0xFF 0xFE 0xFF 0xF8 ∧
    (0xFFFEFFF8#32 : Frame) = (0xFF#8 ++ 0xFE#8 ++ 0xFF#8 ++ 0xF8#8 : Frame) := by
  refine ⟨by decide, by decide, by decide, by decide, by decide, rfl, by decide⟩
theorem witness_OnlyTheShapeHoldsResults : ∃ t, exec .readSingle (busState (.err someFault)) = .next t := ⟨_, rfl⟩
theorem witness_OptionsAreOrthogonal : errorOf (nextResponse (busState (.ok 0x0C 0x00 0x08 0x00))) = none ∧
    errorOf (nextResponse (busState (.ok 0x0C 0x01 0x08 0x00))) = some .faultyReading := by decide
theorem witness_ReadDependsOnTheResponseAlone :
    nextResponse (busState (.ok 1 2 3 4)) = nextResponse { afterSingle with bus := some (.ok 1 2 3 4) } := rfl
theorem witness_UnnamedFrameBitsAreIgnored :
    nextResponse (busState (.ok 0x00 0x02 0x00 0x08)) = responseOfFrame 0x00020008#32 ∧
    nextResponse (busState (.ok 0x00 0x00 0x00 0x00)) = responseOfFrame 0x00000000#32 ∧
    0x00020008#32 &&& 0xFFFDFFF7#32 = 0x00000000#32 &&& 0xFFFDFFF7#32 := by decide
theorem witness_ScaledFormsNeedTheConverter : Instr.readPair.raw = false ∧ Instr.readPairRaw.raw = true := by decide
theorem witness_HostReadsOfNoneFault : afterSingle.x0 = none ∧ afterSingle.x1 = none ∧ afterSingle.f1 = none ∧
    afterSingle.f0 = some 0x4068000000000000#64 ∧ State.reset.f0 = none ∧
    ({ State.reset with x0 := some 1, x1 := some 2, f1 := some 3 } : State).x0 = some 1 := ⟨rfl, rfl, rfl, rfl, rfl, rfl⟩
theorem witness_HostTakesAResultExactlyAfterARead : ∃ s, Inv s ∧ statusDone s.status = true := ⟨_, witness_Inv_afterSingle, by decide⟩

/-- A state with two identical calls pending. -/
def twoCalls : State := { afterSingle with program := [⟨0b11#2, .ok 0xF0 0x60 0x0C 0x90⟩, ⟨0b11#2, .ok 0xF0 0x60 0x0C 0x90⟩] }

theorem witness_Step_call : ∃ c rest, twoCalls.program = c :: c :: rest ∧ decode [0#6 ++ c.cmd] = .ok (.readPairRaw, []) ∧
    Instr.readPairRaw.wellFormed = true ∧ ∃ t, step twoCalls = .next t := ⟨_, _, rfl, by decide, by decide, _, rfl⟩
theorem witness_Step_no_call : State.reset.program = [] := rfl
theorem witness_FetchWordRunsNext : 3 < 4 ∧ decodeTableWord 8 3 = some .readPairRaw := by decide
theorem witness_StepKeepsInvariant : ∃ s t, Inv s ∧ step s = .next t := ⟨_, _, witness_Inv_afterSingle, rfl⟩
theorem witness_StatusWordAfterAStep_done : statusDone twoCalls.status = true := by decide
theorem witness_RunExecutesEveryCallOnce : twoCalls.cs = .high ∧ twoCalls.program ≠ [] := by decide
theorem witness_LastCallDecidesTheReport : ∃ calls calls' c, twoCalls.program = calls ++ [c] ∧
    ({ State.reset with program := [⟨0b11#2, .ok 0xF0 0x60 0x0C 0x90⟩] } : State).program = calls' ++ [c] :=
  ⟨[⟨0b11#2, .ok 0xF0 0x60 0x0C 0x90⟩], [], ⟨0b11#2, .ok 0xF0 0x60 0x0C 0x90⟩, rfl, rfl⟩

end Sys2Proof.Tests
end

section
/-! SUPPORT. The raw values are the frame's signed bit fields, and what the 32-bit registers hold of them
(42_fault_check_and_extract.md section 4). -/

namespace Sys2Proof.Machine

/-! ### The shifted halves are the signed bit fields (42_fault_check_and_extract.md R127) -/

theorem extractTC_sint16 (u : Half) : extractTC (sint16 u) = (u.extractLsb' 2 14).toInt := by
  have hu := u.isLt
  simp only [extractTC, asr, sint16, Config.tcShift, BitVec.toInt_eq_toNat_cond, BitVec.extractLsb'_toNat,
    Nat.shiftRight_eq_div_pow]
  omega

theorem extractINT_sint16 (l : Half) : extractINT (sint16 l) = (l.extractLsb' 4 12).toInt := by
  have hl := l.isLt
  simp only [extractINT, asr, sint16, Config.intShift, BitVec.toInt_eq_toNat_cond, BitVec.extractLsb'_toNat,
    Nat.shiftRight_eq_div_pow]
  omega

/-- What the machine computes from the upper half is the field `TC` of the whole frame. -/
theorem rawTC_eq_fieldTC (w : Frame) : rawTC w = fieldTC w := by
  rw [rawTC, extractTC_sint16, extract_extract w (by decide)]
  rfl

/-- What the machine computes from the lower half is the field `INT` of the whole frame. -/
theorem rawINT_eq_fieldINT (w : Frame) : rawINT w = fieldINT w := by
  rw [rawINT, extractINT_sint16, extract_extract w (by decide)]
  rfl

/-! ### Ranges and the 32-bit registers (42_fault_check_and_extract.md R128, R129) -/

theorem fieldTC_range (w : Frame) : -8192 ≤ fieldTC w ∧ fieldTC w ≤ 8191 :=
  ⟨BitVec.le_toInt (decodeFrame w).tc, BitVec.toInt_le⟩

theorem fieldINT_range (w : Frame) : -2048 ≤ fieldINT w ∧ fieldINT w ≤ 2047 :=
  ⟨BitVec.le_toInt (decodeFrame w).int, BitVec.toInt_le⟩

/-- A raw value loses nothing in a 32-bit register. -/
theorem toInt_toBits32 {n : Int} (hl : -8192 ≤ n) (hu : n ≤ 8191) : (toBits32 n).toInt = n :=
  BitVec.toInt_ofInt_eq_self (by decide) (by omega) (by omega)

theorem toInt_toBits32_fieldTC (w : Frame) : (toBits32 (fieldTC w)).toInt = fieldTC w := by
  obtain ⟨hl, hu⟩ := fieldTC_range w
  exact toInt_toBits32 hl hu

theorem toInt_toBits32_fieldINT (w : Frame) : (toBits32 (fieldINT w)).toInt = fieldINT w := by
  obtain ⟨hl, hu⟩ := fieldINT_range w
  exact toInt_toBits32 (by omega) (by omega)

/-- The register bits from a field's sign bit upward are copies of the field's sign (42_fault_check_and_extract.md R128). -/
theorem toBits32_toInt_getLsbD {n : Nat} (v : BitVec n) {j : Nat} (hj : j < 32) (hn : n ≤ j + 1) :
    (toBits32 v.toInt).getLsbD j = decide (v.toInt < 0) := by
  have hs : toBits32 v.toInt = v.signExtend 32 := rfl
  rw [hs, BitVec.getLsbD_signExtend, decide_eq_true hj, Bool.true_and, ← BitVec.msb_eq_toInt]
  split
  · rw [BitVec.msb_eq_getLsbD_last, show n - 1 = j by omega]
  · rfl

theorem toBits32_fieldTC_high_of_neg {w : Frame} (h : fieldTC w < 0) :
    (toBits32 (fieldTC w)).extractLsb' 13 19 = BitVec.allOnes 19 := by
  apply BitVec.eq_of_getLsbD_eq
  intro j hj
  have hbit : (toBits32 (fieldTC w)).getLsbD (13 + j) = decide (fieldTC w < 0) :=
    toBits32_toInt_getLsbD (decodeFrame w).tc (by omega) (by omega)
  rw [BitVec.getLsbD_extractLsb', BitVec.getLsbD_allOnes, hbit, decide_eq_true h, Bool.and_true]

/-- The shift drops the two low bits of the upper half (40_read_operations.md R82). -/
theorem extractTC_of_dropped {k n : Int} (hl : 4 * k ≤ n) (hu : n ≤ 4 * k + 3) : extractTC n = k := by
  simp only [extractTC, asr, Config.tcShift]
  omega

/-- The shift drops the four low bits of the lower half (40_read_operations.md R84). -/
theorem extractINT_of_dropped {k n : Int} (hl : 16 * k ≤ n) (hu : n ≤ 16 * k + 15) : extractINT n = k := by
  simp only [extractINT, asr, Config.intShift]
  omega

end Sys2Proof.Machine
end

section
/-! SUPPORT. The number a pattern of the converter stands for (43_float_conversion.md R143 to R146). -/

namespace Sys2Proof.Machine

/-- A binary64 pattern of given sign, exponent and fraction fields. -/
def packFloat (sign exponent fraction : Nat) : F64 :=
  BitVec.ofNat 64 (sign * 2 ^ 63 + exponent * 2 ^ 52 + fraction)

section
variable {sign exponent fraction : Nat} (hs : sign ≤ 1) (he : exponent < 2048) (hf : fraction < 2 ^ 52)
include hs he hf

theorem toNat_packFloat : (packFloat sign exponent fraction).toNat = sign * 2 ^ 63 + exponent * 2 ^ 52 + fraction := by
  rw [packFloat, BitVec.toNat_ofNat, Nat.mod_eq_of_lt (by omega)]

theorem expField_packFloat : expField (packFloat sign exponent fraction) = exponent := by
  rw [expField, BitVec.extractLsb'_toNat, toNat_packFloat hs he hf, Nat.shiftRight_eq_div_pow]
  omega

theorem fracField_packFloat : fracField (packFloat sign exponent fraction) = fraction := by
  rw [fracField, BitVec.extractLsb'_toNat, toNat_packFloat hs he hf, Nat.shiftRight_eq_div_pow]
  omega

theorem signBit_packFloat : signBit (packFloat sign exponent fraction) = decide (sign = 1) := by
  rw [signBit, ← BitVec.testBit_toNat, toNat_packFloat hs he hf, Nat.testBit_eq_decide_div_mod_eq]
  congr 1
  apply propext
  omega

theorem floatValue_packFloat (he0 : 0 < exponent) (he1 : exponent < 2047) :
    floatValue (packFloat sign exponent fraction) =
      some ((if sign = 1 then -1 else 1) * (2 ^ 52 + fraction : ℚ) * (2 : ℚ) ^ ((exponent : ℤ) - 1075)) := by
  rw [floatValue, expField_packFloat hs he hf, fracField_packFloat hs he hf, signBit_packFloat hs he hf,
    if_pos ⟨he0, he1⟩]
  simp only [decide_eq_true_eq]

end

/-- The fields of a converted non-zero integer. -/
theorem floatBits_eq_packFloat {n : Int} (k : Nat) (h : n ≠ 0) :
    floatBits n k = packFloat (if n < 0 then 1 else 0) (1023 + highestBit n.natAbs - k)
      ((n.natAbs - 2 ^ highestBit n.natAbs) * 2 ^ (52 - highestBit n.natAbs)) :=
  floatBits_of_ne_zero k h

/-- The hidden leading one and the fraction together are the magnitude, shifted up to bit 52. -/
theorem hiddenOne_add_fraction {m p : Nat} (hp : p ≤ 52) (hm : 2 ^ p ≤ m) :
    2 ^ 52 + (m - 2 ^ p) * 2 ^ (52 - p) = m * 2 ^ (52 - p) := by
  rw [← pow_mul_pow_sub 2 hp, ← Nat.add_mul, Nat.add_sub_cancel' hm]

/-- The fraction field of a magnitude has 52 bits. -/
theorem fraction_lt {m p : Nat} (hp : p ≤ 52) (hm : m < 2 ^ (p + 1)) : (m - 2 ^ p) * 2 ^ (52 - p) < 2 ^ 52 := by
  rw [← pow_mul_pow_sub 2 hp]
  exact Nat.mul_lt_mul_of_pos_right (by rw [Nat.pow_succ] at hm; omega) (by positivity)

/-- The exponent field undoes the shift of the magnitude and divides by `2^k`. -/
theorem shift_mul_exponent {p k : Nat} (hp : p ≤ 52) (hk : k ≤ 1023) :
    (2 : ℚ) ^ (52 - p) * 2 ^ (((1023 + p - k : ℕ) : ℤ) - 1075) = 1 / 2 ^ k := by
  rw [show ((1023 + p - k : ℕ) : ℤ) - 1075 = -((52 - p : ℕ) : ℤ) + -(k : ℤ) by omega,
    zpow_add₀ two_ne_zero, zpow_neg, zpow_neg, zpow_natCast, zpow_natCast, ← mul_assoc,
    mul_inv_cancel₀ (by positivity), one_mul, one_div]

/-- The sign field and the magnitude give the integer back. -/
theorem sign_mul_natAbs (n : Int) : (if (if n < 0 then 1 else 0) = 1 then -1 else 1 : ℚ) * n.natAbs = n := by
  rw [Nat.cast_natAbs]
  by_cases h : n < 0
  · simp [h, abs_of_neg h]
  · simp [h, abs_of_nonneg (not_lt.mp h)]

/-- `FloatBits(n, k)` stands for `n / 2^k`, exactly (43_float_conversion.md R144, R146). -/
theorem floatValue_floatBits {n : Int} {k : Nat} (hl : -8192 ≤ n) (hu : n ≤ 8191) (hk : k ≤ 4) :
    floatValue (floatBits n k) = some ((n : ℚ) / 2 ^ k) := by
  by_cases h : n = 0
  · subst h
    rw [floatBits_zero, floatValue, if_neg (by decide), if_pos (by decide)]
    simp
  · obtain ⟨hlow, hhigh, hp⟩ := highestBit_bounds h hl hu
    rw [floatBits_eq_packFloat k h]
    generalize highestBit n.natAbs = p at *
    have hmag : (2 ^ 52 + ((n.natAbs - 2 ^ p) * 2 ^ (52 - p) : ℕ) : ℚ) = n.natAbs * 2 ^ (52 - p) := by
      exact_mod_cast hiddenOne_add_fraction (by omega) hlow
    rw [floatValue_packFloat (by split <;> decide) (by omega) (fraction_lt (by omega) hhigh) (by omega) (by omega),
      hmag, ← mul_assoc, sign_mul_natAbs, mul_assoc, shift_mul_exponent (by omega) (by omega), mul_one_div]

theorem floatValue_scaleTC {n : Int} (hl : -8192 ≤ n) (hu : n ≤ 8191) : floatValue (scaleTC n) = some ((n : ℚ) / 4) := by
  rw [scaleTC, floatValue_floatBits hl hu (by decide)]
  norm_num

theorem floatValue_scaleINT {n : Int} (hl : -2048 ≤ n) (hu : n ≤ 2047) : floatValue (scaleINT n) = some ((n : ℚ) / 16) := by
  rw [scaleINT, floatValue_floatBits (by omega) (by omega) (by decide)]
  norm_num

end Sys2Proof.Machine
end

section
/-! SUPPORT. The state each form ends in: the first error of the response raised, or the frame decoded (40_read_operations.md R80). -/

namespace Sys2Proof.Machine

/-! ### The first error of a response -/

theorem faultCheckFrame_eq (w : Frame) : faultCheckFrame w =
    if w.getLsbD 0 then some .openCircuit
    else if w.getLsbD 1 then some .shortToGround
    else if w.getLsbD 2 then some .shortToPower
    else if w.getLsbD 16 then some .faultyReading
    else none := by
  have hflags : flagsOfBytes (w.extractLsb' 0 8) (w.extractLsb' 16 8) =
      ⟨w.getLsbD 0, w.getLsbD 1, w.getLsbD 2, w.getLsbD 16⟩ := by simp [flagsOfBytes]
  rw [faultCheckFrame, hflags, faultCheck]

theorem faultCheckFrame_eq_none_iff_bits (w : Frame) : faultCheckFrame w = none ↔
    w.getLsbD 0 = false ∧ w.getLsbD 1 = false ∧ w.getLsbD 2 = false ∧ w.getLsbD 16 = false := by
  rw [faultCheckFrame_eq]
  split_ifs <;> simp_all

/-- The mask has exactly the four fault bits (42_fault_check_and_extract.md R120). -/
theorem faultMask_getLsbD {i : Nat} (hi : i < 32) :
    (0x00010007#32).getLsbD i = decide (i = 0 ∨ i = 1 ∨ i = 2 ∨ i = 16) := by
  revert i; decide

theorem faultCheckFrame_eq_none_iff (w : Frame) : faultCheckFrame w = none ↔ w &&& 0x00010007#32 = 0#32 := by
  rw [faultCheckFrame_eq_none_iff_bits]
  constructor
  · rintro ⟨h0, h1, h2, h16⟩
    apply BitVec.eq_of_getLsbD_eq
    intro i hi
    rw [BitVec.getLsbD_and, faultMask_getLsbD hi, BitVec.getLsbD_zero, Bool.and_eq_false_iff]
    by_cases hm : i = 0 ∨ i = 1 ∨ i = 2 ∨ i = 16
    · left
      obtain rfl | rfl | rfl | rfl := hm <;> assumption
    · exact .inr (decide_eq_false hm)
  · intro h
    have hbit : ∀ i, (w &&& 0x00010007#32).getLsbD i = false := by simp [h]
    have hclear : ∀ i, (0x00010007#32).getLsbD i = true → w.getLsbD i = false := fun i hi => by
      simpa [BitVec.getLsbD_and, hi] using hbit i
    exact ⟨hclear 0 (by decide), hclear 1 (by decide), hclear 2 (by decide), hclear 16 (by decide)⟩

/-- A response without error carries a frame that passes the fault check. -/
theorem ok_of_errorOf_eq_none {r : BusResponse} (h : errorOf r = none) :
    ∃ b0 b1 b2 b3, r = .ok b0 b1 b2 b3 ∧ faultCheckFrame (b0 ++ b1 ++ b2 ++ b3) = none := by
  cases r with
  | ok b0 b1 b2 b3 => exact ⟨b0, b1, b2, b3, rfl, h⟩
  | err e => cases h

/-! ### The state after the transfer -/

@[simp] theorem loaded_status (r : BusResponse) (c : Cmd) (s : State) :
    (loaded r c s).status = withStart s.status c := rfl
@[simp] theorem loaded_errValue (r : BusResponse) (c : Cmd) (s : State) : (loaded r c s).errValue = none := rfl
@[simp] theorem loaded_x0 (r : BusResponse) (c : Cmd) (s : State) : (loaded r c s).x0 = none := rfl
@[simp] theorem loaded_x1 (r : BusResponse) (c : Cmd) (s : State) : (loaded r c s).x1 = none := rfl
@[simp] theorem loaded_f0 (r : BusResponse) (c : Cmd) (s : State) : (loaded r c s).f0 = none := rfl
@[simp] theorem loaded_f1 (r : BusResponse) (c : Cmd) (s : State) : (loaded r c s).f1 = none := rfl

theorem loaded_noResult (r : BusResponse) (c : Cmd) (s : State) : NoResult (loaded r c s) := ⟨rfl, rfl, rfl, rfl⟩

theorem loaded_holdsFrame (r : BusResponse) (c : Cmd) (s : State) :
    HoldsFrame (loaded r c s).buf (transferredFrame r s.draws) :=
  frameOf_loadFrame s.buf (transferredFrame r s.draws)

theorem loaded_readFrame (r : BusResponse) (c : Cmd) (s : State) : ReadFrame c s (loaded r c s) where
  cmd_kept := rfl
  program_kept := rfl
  cs_high := rfl
  trace_grown := rfl
  memory_kept _ ha := read_loadFrame_outside s.buf (transferredFrame r s.draws) ha
  done_set := statusDone_withStart s.status c
  shape_set := statusShape_withStart s.status c
  bus_used := rfl
  draw_counted := rfl

/-! ### The end of a `read`: what the last writes leave -/

theorem raiseError_keeps_readFrame {c : Cmd} {s t : State} (k : ErrorKind) (h : ReadFrame c s t) :
    ReadFrame c s (raiseError k t) :=
  { h with
    done_set := by simpa using h.done_set
    shape_set := by simpa using h.shape_set }

theorem succeed_keeps_readFrame {c : Cmd} {s t : State} (h : ReadFrame c s t) : ReadFrame c s (succeed t) :=
  { h with
    done_set := by simpa using h.done_set
    shape_set := by simpa using h.shape_set }

/-- A form's own writes go to the result registers only. -/
theorem deliverOf_frame (i : Instr) (tc int : Int) (s : State) :
    ∃ x0 x1 f0 f1, deliverOf i tc int s = { s with x0 := x0, x1 := x1, f0 := f0, f1 := f1 } := by
  cases i <;> exact ⟨_, _, _, _, rfl⟩

theorem deliverOf_keeps_readFrame {c : Cmd} {s t : State} (i : Instr) (tc int : Int) (h : ReadFrame c s t) :
    ReadFrame c s (deliverOf i tc int t) := by
  obtain ⟨x0, x1, f0, f1, ht⟩ := deliverOf_frame i tc int t
  rw [ht]
  exact { h with }

/-! ### A response with an error -/

theorem raisedState_loaded (c : Cmd) (k : ErrorKind) (r : BusResponse) (s : State) :
    RaisedState c k s (raiseError k (loaded r c s)) :=
  ⟨by simp, loaded_noResult r c s, rfl, raiseError_keeps_readFrame k (loaded_readFrame r c s)⟩

/-- Every form raises the response's first error on the loaded state; the form's own writes play no part. -/
theorem exec_of_error (i : Instr) {s : State} {k : ErrorKind} (h : errorOf (nextResponse s) = some k) :
    exec i s = .next (raiseError k (loaded (nextResponse s) (encodeCmd i) s)) := by
  rw [exec_eq_runRead]
  cases hr : nextResponse s with
  | ok b0 b1 b2 b3 =>
    rw [hr] at h
    exact runRead_fault hr h
  | err e =>
    rw [hr] at h
    cases h
    exact runRead_err hr

theorem exec_raises (i : Instr) {s : State} {k : ErrorKind} (h : errorOf (nextResponse s) = some k) :
    ∃ t, exec i s = .next t ∧ RaisedState (encodeCmd i) k s t :=
  ⟨_, exec_of_error i h, raisedState_loaded (encodeCmd i) k (nextResponse s) s⟩

/-! ### A response without error -/

/-- Where a form ends on a frame without a fault bit, the raw values being the frame's signed bit fields. -/
def decodedBy (i : Instr) (b0 b1 b2 b3 : Byte) (s : State) : State :=
  deliverOf i (fieldTC (b0 ++ b1 ++ b2 ++ b3)) (fieldINT (b0 ++ b1 ++ b2 ++ b3))
    (succeed (loaded (.ok b0 b1 b2 b3) (encodeCmd i) s))

theorem exec_of_no_error (i : Instr) {s : State} {b0 b1 b2 b3 : Byte} (h : nextResponse s = .ok b0 b1 b2 b3)
    (hk : faultCheckFrame (b0 ++ b1 ++ b2 ++ b3) = none) : exec i s = .next (decodedBy i b0 b1 b2 b3 s) := by
  rw [exec_eq_runRead, runRead_decodes h hk, rawTC_eq_fieldTC, rawINT_eq_fieldINT]
  rfl

theorem decodedBy_decodedState (i : Instr) (b0 b1 b2 b3 : Byte) (s : State) :
    DecodedState (encodeCmd i) (b0 ++ b1 ++ b2 ++ b3) s (decodedBy i b0 b1 b2 b3 s) := by
  have hframe : ReadFrame (encodeCmd i) s (decodedBy i b0 b1 b2 b3 s) :=
    deliverOf_keeps_readFrame i _ _ (succeed_keeps_readFrame (loaded_readFrame (.ok b0 b1 b2 b3) (encodeCmd i) s))
  obtain ⟨x0, x1, f0, f1, ht⟩ := deliverOf_frame i (fieldTC (b0 ++ b1 ++ b2 ++ b3)) (fieldINT (b0 ++ b1 ++ b2 ++ b3))
    (succeed (loaded (.ok b0 b1 b2 b3) (encodeCmd i) s))
  refine ⟨?_, ?_, ?_, hframe⟩ <;> rw [decodedBy, ht]
  · simp
  · rfl
  · exact loaded_holdsFrame (.ok b0 b1 b2 b3) (encodeCmd i) s

/-- The same for a frame that the mask of the four fault bits clears. -/
theorem exec_completes (i : Instr) {s : State} {b0 b1 b2 b3 : Byte} (h : nextResponse s = .ok b0 b1 b2 b3)
    (hw : (b0 ++ b1 ++ b2 ++ b3 : Frame) &&& 0x00010007#32 = 0#32) :
    exec i s = .next (decodedBy i b0 b1 b2 b3 s) :=
  exec_of_no_error i h ((faultCheckFrame_eq_none_iff _).mpr hw)

/-! ### Nothing of the state before shows in the report -/

theorem raiseError_sameReport (k : ErrorKind) (r : BusResponse) (c : Cmd) (s s' : State) :
    SameReport (raiseError k (loaded r c s)) (raiseError k (loaded r c s')) := by
  simp [SameReport]

theorem decodedBy_sameReport (i : Instr) (b0 b1 b2 b3 : Byte) (s s' : State) :
    SameReport (decodedBy i b0 b1 b2 b3 s) (decodedBy i b0 b1 b2 b3 s') := by
  cases i <;> simp [SameReport, decodedBy, deliverOf, deliverSingle, deliverSingleRaw, deliverPair, deliverPairRaw]

end Sys2Proof.Machine
end

section
/-! PROOFS. The four forms of `read`, their options and what they depend on (40_read_operations.md R81 to R86). -/

namespace Sys2Proof.Machine

/-- Settles O22: the decode and raise rules at `READ.SINGLE`; the corner values follow from the value of `ScaleTC`. -/
theorem readSingleResult : Obligations.ReadSingleResult := by
  have hmin : floatValue (scaleTC (-8192)) = some (-2048) := by
    rw [floatValue_scaleTC (by decide) (by decide)]; norm_num
  have hmax : floatValue (scaleTC 8191) = some (8191 / 4) := by
    rw [floatValue_scaleTC (by decide) (by decide)]; norm_num
  refine ⟨by decide, fun s b0 b1 b2 b3 hr hw => ?_, fun s k h => exec_raises .readSingle h, fun _ => rfl,
    rfl, hmin, hmax, by decide, by decide, by decide, by decide, by decide, by decide⟩
  exact ⟨_, exec_completes .readSingle hr hw, rfl, rfl, rfl, rfl, decodedBy_decodedState .readSingle b0 b1 b2 b3 s⟩

/-- Settles O23: the decode and raise rules at `READ.SINGLERAW`; the register is the sign-extended field. -/
theorem readSingleRawResult : Obligations.ReadSingleRawResult := by
  refine ⟨by decide, fun s b0 b1 b2 b3 hr hw => ?_, fun s k h => exec_raises .readSingleRaw h, fun _ _ => rfl,
    fun w => ?_, fun w => toBits32_fieldTC_high_of_neg, fun k u => extractTC_of_dropped, by decide, by decide⟩
  · exact ⟨_, exec_completes .readSingleRaw hr hw, rfl, rfl, rfl, rfl,
      decodedBy_decodedState .readSingleRaw b0 b1 b2 b3 s⟩
  · rw [toInt_toBits32_fieldTC]
    exact fieldTC_range w

/-- Settles O24: the decode and raise rules at `READ.PAIR`; the corner values follow from the values of both scalings. -/
theorem readPairResult : Obligations.ReadPairResult := by
  have hmin : floatValue (scaleINT (-2048)) = some (-128) := by
    rw [floatValue_scaleINT (by decide) (by decide)]; norm_num
  have hmax : floatValue (scaleINT 2047) = some (2047 / 16) := by
    rw [floatValue_scaleINT (by decide) (by decide)]; norm_num
  have htc : floatValue (scaleTC (fieldTC 0xFFFC0010#32)) = some (-1 / 4) := by
    rw [show fieldTC 0xFFFC0010#32 = -1 by decide, floatValue_scaleTC (by decide) (by decide)]
    norm_num
  have hint : floatValue (scaleINT (fieldINT 0xFFFC0010#32)) = some (1 / 16) := by
    rw [show fieldINT 0xFFFC0010#32 = 1 by decide, floatValue_scaleINT (by decide) (by decide)]
    norm_num
  refine ⟨by decide, fun s b0 b1 b2 b3 hr hw => ?_, fun s k h => exec_raises .readPair h, fun _ => rfl,
    rfl, hmin, hmax, htc, hint, by decide, by decide⟩
  exact ⟨_, exec_completes .readPair hr hw, rfl, rfl, rfl, rfl, decodedBy_decodedState .readPair b0 b1 b2 b3 s⟩

/-- Settles O25: the decode and raise rules at `READ.PAIRRAW`; both registers are sign-extended fields. -/
theorem readPairRawResult : Obligations.ReadPairRawResult := by
  refine ⟨by decide, fun s b0 b1 b2 b3 hr hw => ?_, fun s k h => exec_raises .readPairRaw h, fun _ _ => rfl,
    fun w => ?_, fun k l h => extractINT_of_dropped (by omega) (by omega), by decide, by decide, by decide, by decide,
    by decide, by decide⟩
  · exact ⟨_, exec_completes .readPairRaw hr hw, rfl, rfl, rfl, rfl,
      decodedBy_decodedState .readPairRaw b0 b1 b2 b3 s⟩
  · rw [toInt_toBits32_fieldINT]
    exact fieldINT_range w

/-- Settles O35: one response, four decodes of the same two fields, which the raw registers hold without loss; or four
raises of the same kind. -/
theorem optionsAreOrthogonal : Obligations.OptionsAreOrthogonal := by
  constructor
  · intro s h
    obtain ⟨b0, b1, b2, b3, hr, hk⟩ := ok_of_errorOf_eq_none h
    refine ⟨_, _, _, _, exec_of_no_error .readSingle hr hk, exec_of_no_error .readSingleRaw hr hk,
      exec_of_no_error .readPair hr hk, exec_of_no_error .readPairRaw hr hk,
      toBits32 (fieldTC (b0 ++ b1 ++ b2 ++ b3)), toBits32 (fieldINT (b0 ++ b1 ++ b2 ++ b3)), rfl, rfl, ?_, rfl, rfl, ?_⟩
    · rw [toInt_toBits32_fieldTC]
      rfl
    · rw [toInt_toBits32_fieldINT]
      rfl
  · intro s k h i
    obtain ⟨t, ht, hstatus, -, hvalue, -⟩ := exec_raises i h
    exact ⟨t, ht, by rw [hstatus, statusCode_pack], hvalue⟩

/-- Settles O36: both reads raise the response's error or decode its frame, and neither end keeps anything of the report before. -/
theorem readDependsOnTheResponseAlone : Obligations.ReadDependsOnTheResponseAlone := by
  intro i s s' heq
  cases h : errorOf (nextResponse s) with
  | some k =>
    have h' : errorOf (nextResponse s') = some k := heq ▸ h
    refine ⟨_, _, exec_of_error i h, exec_of_error i h', ?_, rfl, rfl, fun b0 b1 b2 b3 hr => ?_⟩
    · rw [heq]
      exact raiseError_sameReport k (nextResponse s') (encodeCmd i) s s'
    · rw [← heq, hr]
      exact (loaded_holdsFrame (.ok b0 b1 b2 b3) (encodeCmd i) s).trans
        (loaded_holdsFrame (.ok b0 b1 b2 b3) (encodeCmd i) s').symm
  | none =>
    obtain ⟨b0, b1, b2, b3, hr, hk⟩ := ok_of_errorOf_eq_none h
    obtain ⟨-, -, hbuf, hframe⟩ := decodedBy_decodedState i b0 b1 b2 b3 s
    obtain ⟨-, -, hbuf', hframe'⟩ := decodedBy_decodedState i b0 b1 b2 b3 s'
    exact ⟨_, _, exec_of_no_error i hr hk, exec_of_no_error i (heq ▸ hr) hk, decodedBy_sameReport i b0 b1 b2 b3 s s',
      hframe.trace_grown, hframe'.trace_grown, fun _ _ _ _ _ => hbuf.trans hbuf'.symm⟩

end Sys2Proof.Machine
end

section
/-! SUPPORT. The collaborators of a `read`: the toggle sequence of a trace, the bytes a transfer stores, and what every `read` leaves
whatever its outcome (41_transaction_sequence.md R100 to R105). -/

namespace Sys2Proof.Machine

/-! ### The chip-select control and the trace -/

@[simp] theorem setLow_setLow (s : State) : setLow (setLow s) = setLow s := rfl
@[simp] theorem setHigh_setHigh (s : State) : setHigh (setHigh s) = setHigh s := rfl

@[simp] theorem toggles_bracket : toggles bracket = [.csLow, .csHigh] := rfl

/-- The toggle sequence of a chain of traces is the chain of their toggle sequences. -/
theorem toggles_flatten (traces : List (List Event)) : toggles traces.flatten = (traces.map toggles).flatten :=
  List.filter_flatten

/-! ### The bytes of a stored frame -/

/-- The four slices of a frame put together of four bytes are these bytes, `b0` the most significant (00_scope.md R5). -/
theorem bytes_of_frame (b0 b1 b2 b3 : Byte) :
    (b0 ++ b1 ++ b2 ++ b3 : Frame).extractLsb' 24 8 = b0 ∧ (b0 ++ b1 ++ b2 ++ b3 : Frame).extractLsb' 16 8 = b1 ∧
    (b0 ++ b1 ++ b2 ++ b3 : Frame).extractLsb' 8 8 = b2 ∧ (b0 ++ b1 ++ b2 ++ b3 : Frame).extractLsb' 0 8 = b3 := by
  refine ⟨?_, ?_, ?_, ?_⟩
  · rw [BitVec.extractLsb'_append_eq_of_le (by decide), BitVec.extractLsb'_append_eq_of_le (by decide),
      BitVec.extractLsb'_append_eq_of_le (by decide), BitVec.extractLsb'_eq_self]
  · rw [BitVec.extractLsb'_append_eq_of_le (by decide), BitVec.extractLsb'_append_eq_of_le (by decide),
      BitVec.extractLsb'_append_eq_of_add_le (by decide), BitVec.extractLsb'_eq_self]
  · rw [BitVec.extractLsb'_append_eq_of_le (by decide), BitVec.extractLsb'_append_eq_of_add_le (by decide),
      BitVec.extractLsb'_eq_self]
  · rw [BitVec.extractLsb'_append_eq_of_add_le (by decide), BitVec.extractLsb'_eq_self]

/-- The buffer reads as the four bytes, one by one and as one frame. -/
def HoldsBytes (m : Memory) (b0 b1 b2 b3 : Byte) : Prop :=
  readByte m 0 = .next b0 ∧ readByte m 1 = .next b1 ∧ readByte m 2 = .next b2 ∧ readByte m 3 = .next b3 ∧
  frameOf m = .next (b0 ++ b1 ++ b2 ++ b3)

/-- Nothing of the old content is left of a buffer in which four bytes were stored (41_transaction_sequence.md R104). -/
theorem loadFrame_holdsBytes (m : Memory) (b0 b1 b2 b3 : Byte) :
    HoldsBytes (loadFrame m (b0 ++ b1 ++ b2 ++ b3)) b0 b1 b2 b3 := by
  obtain ⟨h0, h1, h2, h3⟩ := bytes_of_frame b0 b1 b2 b3
  refine ⟨?_, ?_, ?_, ?_, frameOf_loadFrame m _⟩
  · rw [read_loadFrame_0, h0]
  · rw [read_loadFrame_1, h1]
  · rw [read_loadFrame_2, h2]
  · rw [read_loadFrame_3, h3]

/-! ### The end of a transfer and of a `read`, whatever the outcome -/

/-- A transfer always returns, with the four bytes of its frame stored. -/
theorem transfer_stores (r : BusResponse) (s : State) :
    ∃ t, transfer r s = .next t ∧ t.buf = loadFrame s.buf (transferredFrame r s.draws) :=
  ⟨_, by rw [transfer, memWrite_frame, andThen_next], rfl⟩

theorem decodedBy_buf (i : Instr) (b0 b1 b2 b3 : Byte) (s : State) :
    (decodedBy i b0 b1 b2 b3 s).buf = loadFrame s.buf (b0 ++ b1 ++ b2 ++ b3) := by
  cases i <;> rfl

/-- On every path a `read` completes, keeps its frame, and leaves in the buffer what its transfer stored. -/
theorem exec_always_completes (i : Instr) (s : State) :
    ∃ t, exec i s = .next t ∧ ReadFrame (encodeCmd i) s t ∧
      t.buf = loadFrame s.buf (transferredFrame (nextResponse s) s.draws) := by
  cases h : errorOf (nextResponse s) with
  | some k =>
    exact ⟨_, exec_of_error i h, raiseError_keeps_readFrame k (loaded_readFrame (nextResponse s) (encodeCmd i) s), rfl⟩
  | none =>
    obtain ⟨b0, b1, b2, b3, hr, hk⟩ := ok_of_errorOf_eq_none h
    obtain ⟨-, -, -, hframe⟩ := decodedBy_decodedState i b0 b1 b2 b3 s
    refine ⟨_, exec_of_no_error i hr hk, hframe, ?_⟩
    rw [hr]
    exact decodedBy_buf i b0 b1 b2 b3 s

end Sys2Proof.Machine
end

section
/-! PROOFS. The transaction: the chip-select control, the store and the bracket (41_transaction_sequence.md R100, R104, R105). -/

namespace Sys2Proof.Machine

/-- Settles O27: every `read` keeps its frame, which has the line high and the bracket appended; the toggles of `n` brackets are `n`
times the toggles of one. -/
theorem everyReadIsBracketed : Obligations.EveryReadIsBracketed := by
  constructor
  · intro i s
    obtain ⟨t, ht, hframe, -⟩ := exec_always_completes i s
    exact ⟨t, ht, hframe.cs_high, hframe.trace_grown⟩
  · intro n
    rw [brackets, toggles_flatten, List.map_replicate, toggles_bracket]

/-- Settles O29: the transfer stores the frame, and no form's later steps touch the buffer. -/
theorem successfulTransferStoresFourBytes : Obligations.SuccessfulTransferStoresFourBytes := by
  constructor
  · intro s b0 b1 b2 b3
    obtain ⟨t, ht, hbuf⟩ := transfer_stores (.ok b0 b1 b2 b3) s
    exact ⟨t, ht, hbuf ▸ loadFrame_holdsBytes s.buf b0 b1 b2 b3⟩
  · intro i s b0 b1 b2 b3 hr
    obtain ⟨t, ht, -, hbuf⟩ := exec_always_completes i s
    rw [hr] at hbuf
    exact ⟨t, ht, hbuf ▸ loadFrame_holdsBytes s.buf b0 b1 b2 b3⟩

/-- Settles O28: each control writes the one field, the same level the second time. -/
theorem chipSelectControlSetsTheLevel : Obligations.ChipSelectControlSetsTheLevel :=
  fun s => ⟨rfl, rfl, setLow_setLow s, setHigh_setHigh s⟩

end Sys2Proof.Machine
end

section
/-! SUPPORT. What a buffer that holds a frame answers: it reads, byte by byte, as the buffer in which that frame was just stored
(20_memory.md R42), so the accesses A1 to A4 have the values they have after a transfer. -/

namespace Sys2Proof.Machine

/-! ### From the 32-bit view to the bytes -/

/-- A read of `n + 1` bytes is a read of the first `n` and of the last one, the last the least significant: the read side of
`memWrite`. -/
theorem memRead_succ_eq_next {m : Memory} {a n : Nat} {v : BitVec (8 * n + 8)} (h : memRead m a (n + 1) = .next v) :
    memRead m a n = .next (v.extractLsb' 8 (8 * n)) ∧ readByte m (a + n) = .next (v.extractLsb' 0 8) := by
  obtain ⟨hi, hhi, h⟩ := andThen_eq_next h
  obtain ⟨lo, hlo, h⟩ := andThen_eq_next h
  obtain rfl : hi ++ lo = v := Host.Outcome.next.inj h
  rw [hhi, hlo, BitVec.extractLsb'_append_eq_left, BitVec.extractLsb'_append_eq_right]
  exact ⟨rfl, rfl⟩

/-- The four bytes of a held frame, `B[0]` the most significant. -/
theorem readByte_of_holdsFrame {m : Memory} {w : Frame} (h : HoldsFrame m w) :
    readByte m 0 = .next (w.extractLsb' 24 8) ∧ readByte m 1 = .next (w.extractLsb' 16 8) ∧
    readByte m 2 = .next (w.extractLsb' 8 8) ∧ readByte m 3 = .next (w.extractLsb' 0 8) := by
  obtain ⟨h, h3⟩ := memRead_succ_eq_next h
  obtain ⟨h, h2⟩ := memRead_succ_eq_next h
  obtain ⟨h, h1⟩ := memRead_succ_eq_next h
  obtain ⟨-, h0⟩ := memRead_succ_eq_next h
  simp only [extract_extract, Nat.reduceMul, Nat.reduceAdd, Nat.reduceLeDiff] at h0 h1 h2
  exact ⟨h0, h1, h2, h3⟩

/-- A buffer that holds a frame reads at every address as the buffer in which the frame was stored. -/
theorem readByte_eq_loadFrame {m : Memory} {w : Frame} (h : HoldsFrame m w) (a : Nat) :
    readByte m a = readByte (loadFrame m w) a := by
  obtain ⟨h0, h1, h2, h3⟩ := readByte_of_holdsFrame h
  match a with
  | 0 => rw [h0, read_loadFrame_0]
  | 1 => rw [h1, read_loadFrame_1]
  | 2 => rw [h2, read_loadFrame_2]
  | 3 => rw [h3, read_loadFrame_3]
  | a + 4 => rw [read_loadFrame_outside m w (Nat.le_add_left 4 a)]

/-- Buffers that read alike at every address give every access alike. -/
theorem memRead_congr {m m' : Memory} (h : ∀ a, readByte m a = readByte m' a) (a n : Nat) :
    memRead m a n = memRead m' a n := by
  induction n with
  | zero => rfl
  | succ n ih => rw [memRead, memRead, ih, h]

section
variable {m : Memory} {w : Frame} (h : HoldsFrame m w)
include h

theorem memRead_eq_loadFrame (a n : Nat) : memRead m a n = memRead (loadFrame m w) a n :=
  memRead_congr (readByte_eq_loadFrame h) a n

theorem checkFaults_of_holdsFrame : checkFaults m = .next (faultCheckFrame w) := by
  rw [← checkFaults_loadFrame m w, checkFaults, checkFaults, memRead_eq_loadFrame h, memRead_eq_loadFrame h]

theorem readUpper_of_holdsFrame : readUpper m = .next (sint16 (w.extractLsb' 16 16)) := by
  rw [← readUpper_loadFrame m w, readUpper, readUpper, memRead_eq_loadFrame h]

theorem readLower_of_holdsFrame : readLower m = .next (sint16 (w.extractLsb' 0 16)) := by
  rw [← readLower_loadFrame m w, readLower, readLower, memRead_eq_loadFrame h]

end

/-! ### The bits under the mask -/

/-- Words alike under a mask have the same bit wherever the mask has a one. -/
theorem getLsbD_eq_of_and_eq {n : Nat} {v v' mask : BitVec n} (h : v &&& mask = v' &&& mask) {i : Nat}
    (hi : mask.getLsbD i = true) : v.getLsbD i = v'.getLsbD i := by
  have hbit := congrArg (fun x => x.getLsbD i) h
  simpa only [BitVec.getLsbD_and, hi, Bool.and_true] using hbit

/-- The fault check sees no bit outside the mask (42_fault_check_and_extract.md R120). -/
theorem faultCheckFrame_congr {w w' : Frame} (h : w &&& 0x00010007#32 = w' &&& 0x00010007#32) :
    faultCheckFrame w = faultCheckFrame w' := by
  rw [faultCheckFrame_eq, faultCheckFrame_eq, getLsbD_eq_of_and_eq h (i := 0) (by decide),
    getLsbD_eq_of_and_eq h (i := 1) (by decide), getLsbD_eq_of_and_eq h (i := 2) (by decide),
    getLsbD_eq_of_and_eq h (i := 16) (by decide)]

end Sys2Proof.Machine
end

section
/-! PROOFS. The fault check and the halves (42_fault_check_and_extract.md R120, R122). -/

namespace Sys2Proof.Machine

/-- Settles O12: the check reads the four bits of the mask in the fixed order; on a buffer that holds the frame it is the check after
the store. -/
theorem faultCheckOrder : Obligations.FaultCheckOrder :=
  ⟨faultCheckFrame_eq, faultCheckFrame_eq_none_iff, fun _ _ => faultCheckFrame_congr, fun _ _ => checkFaults_of_holdsFrame,
    by decide, by decide, by decide⟩

/-- Settles O13: each access reads its own half of the held frame, and a half of two joined halves is that half. -/
theorem halvesAreIndependentSignedIntegers : Obligations.HalvesAreIndependentSignedIntegers := by
  refine ⟨fun m w h => ⟨readUpper_of_holdsFrame h, readLower_of_holdsFrame h⟩, fun u u' l l' m m' h => ⟨fun h' => ?_, fun h' => ?_⟩,
    fun m h => ?_, fun m h => ?_⟩
  · rw [readUpper_of_holdsFrame h, readUpper_of_holdsFrame h', BitVec.extractLsb'_append_eq_left,
      BitVec.extractLsb'_append_eq_left]
  · rw [readLower_of_holdsFrame h, readLower_of_holdsFrame h', BitVec.extractLsb'_append_eq_right,
      BitVec.extractLsb'_append_eq_right]
  · rw [readUpper_of_holdsFrame h, readLower_of_holdsFrame h]
    exact ⟨rfl, rfl⟩
  · rw [readUpper_of_holdsFrame h, readLower_of_holdsFrame h]
    exact ⟨rfl, rfl⟩

end Sys2Proof.Machine
end

section
/-! SUPPORT. What a finished `read` reports: the code of the response's first error and no result, or code 0 and a result
(60_exceptions.md R163, 40_read_operations.md R89). -/

namespace Sys2Proof.Machine

/-- Every form delivers at least one result. -/
theorem decodedBy_holdsResult (i : Instr) (b0 b1 b2 b3 : Byte) (s : State) : ¬ NoResult (decodedBy i b0 b1 b2 b3 s) := by
  rintro ⟨hx0, -, hf0, -⟩
  cases i with
  | readSingle | readPair => cases hf0
  | readSingleRaw | readPairRaw => cases hx0

section
variable {i : Instr} {s t : State} (ht : exec i s = .next t)
include ht

theorem report_of_error {k : ErrorKind} (h : errorOf (nextResponse s) = some k) :
    statusCode t.status = errorCode k ∧ NoResult t := by
  obtain ⟨t', ht', hstatus, hno, -⟩ := exec_raises i h
  obtain rfl : t = t' := Host.Outcome.next.inj (ht.symm.trans ht')
  exact ⟨by rw [hstatus, statusCode_pack], hno⟩

theorem report_of_no_error (h : errorOf (nextResponse s) = none) : statusCode t.status = codeOk ∧ ¬ NoResult t := by
  obtain ⟨b0, b1, b2, b3, hr, hk⟩ := ok_of_errorOf_eq_none h
  obtain rfl : t = decodedBy i b0 b1 b2 b3 s := Host.Outcome.next.inj (ht.symm.trans (exec_of_no_error i hr hk))
  obtain ⟨hstatus, -⟩ := decodedBy_decodedState i b0 b1 b2 b3 s
  exact ⟨by rw [hstatus, statusCode_pack], decodedBy_holdsResult i b0 b1 b2 b3 s⟩

end

end Sys2Proof.Machine
end

section
/-! PROOFS. The priority of the errors (60_exceptions.md R161). -/

namespace Sys2Proof.Machine

/-- Settles O31: a `read` reports the response's first error, and the four bits of the frame decide, in the order of the fault check,
which one that is. -/
theorem errorsAreReportedInPriority : Obligations.ErrorsAreReportedInPriority := by
  intro i s
  obtain ⟨t, ht, -⟩ := exec_always_completes i s
  constructor
  · intro e hr
    exact ⟨t, ht, report_of_error ht (k := .transportError e) (by rw [hr]; rfl)⟩
  · rintro b0 b1 b2 b3 w hr rfl
    have herr : errorOf (nextResponse s) = faultCheckFrame (b0 ++ b1 ++ b2 ++ b3) := by rw [hr]; rfl
    rw [faultCheckFrame_eq] at herr
    refine ⟨t, ht, fun hoc => ?_, fun hoc hscg => ?_, fun hoc hscg hscv => ?_, fun hoc hscg hscv hfault => ?_,
      fun hoc hscg hscv hfault => ?_⟩
    · exact report_of_error ht (k := .openCircuit) (by rw [herr, hoc]; rfl)
    · exact report_of_error ht (k := .shortToGround) (by rw [herr, hoc, hscg]; rfl)
    · exact report_of_error ht (k := .shortToPower) (by rw [herr, hoc, hscg, hscv]; rfl)
    · exact report_of_error ht (k := .faultyReading) (by rw [herr, hoc, hscg, hscv, hfault]; rfl)
    · exact report_of_no_error ht (by rw [herr, hoc, hscg, hscv, hfault]; rfl)

end Sys2Proof.Machine
end

section
/-! SUPPORT. Command words, their bytes, and the bits of a frame: each form has one word, each word one form, and cutting a vector into
adjoining slices loses nothing (30_encoding.md R61, R62, R64). -/

namespace Sys2Proof

/-- The round trip of every form, out of the lemma per constructor. -/
theorem roundTrip (i : Instr) : Laws.RoundTrip.Statement i :=
  match i with
  | .readSingle => Laws.RoundTrip.readSingle
  | .readSingleRaw => Laws.RoundTrip.readSingleRaw
  | .readPair => Laws.RoundTrip.readPair
  | .readPairRaw => Laws.RoundTrip.readPairRaw

@[simp] theorem decodeCmd_encodeCmd (i : Instr) : decodeCmd (encodeCmd i) = i := (roundTrip i).1

@[simp] theorem encodeCmd_decodeCmd (c : Cmd) : encodeCmd (decodeCmd c) = c := by
  revert c; decide

theorem decode_encode (i : Instr) (rest : List Byte) : decode (encode i ++ rest) = .ok (i, rest) := (roundTrip i).2 rest

/-- What a byte string that decodes must have been. -/
theorem eq_encode_of_decode {bs : List Byte} {i : Instr} {rest : List Byte} (h : decode bs = .ok (i, rest)) :
    bs = encode i ++ rest := by
  cases bs with
  | nil => cases h
  | cons b bs =>
    simp only [decode] at h
    split at h
    · next hzero =>
      cases h
      have hb : b.extractLsb' 2 6 ++ b.extractLsb' 0 2 = b :=
        (BitVec.extractLsb'_append_extractLsb'_eq_extractLsb' rfl).trans BitVec.extractLsb'_eq_self
      rw [encode, encodeCmd_decodeCmd, ← hzero, hb]
      rfl
    · cases h

/-- The four words in two bits: `CMD[1]` is `RAW`, `CMD[0]` is `RETURN_INTERNAL` (30_encoding.md R61). -/
theorem encodeCmd_eq_commandWord (i : Instr) : encodeCmd i = commandWord i.returnInternal i.raw := by
  cases i <;> rfl

theorem raw_decodeCmd (c : Cmd) : (decodeCmd c).raw = c.getLsbD 1 := by
  revert c; decide

theorem returnInternal_decodeCmd (c : Cmd) : (decodeCmd c).returnInternal = c.getLsbD 0 := by
  revert c; decide

theorem getLsbD_commandWord (returnInternal raw : Bool) :
    (commandWord returnInternal raw).getLsbD 0 = returnInternal ∧ (commandWord returnInternal raw).getLsbD 1 = raw := by
  revert returnInternal raw; decide

/-- One bit as a slice. -/
theorem ofBool_getLsbD {n : Nat} (v : BitVec n) (i : Nat) : BitVec.ofBool (v.getLsbD i) = v.extractLsb' i 1 := by
  apply BitVec.eq_of_getLsbD_eq
  intro j hj
  obtain rfl : j = 0 := by omega
  simp

/-- The fields of a frame, put together again (30_encoding.md R62). -/
theorem encodeFrame_decodeFrame (w : Frame) : encodeFrame (decodeFrame w) = w := by
  simp only [encodeFrame, decodeFrame, ofBool_getLsbD]
  iterate 7 rw [BitVec.extractLsb'_append_extractLsb'_eq_extractLsb']
  exact BitVec.extractLsb'_eq_self
  all_goals rfl

theorem decodeFrame_encodeFrame (f : FrameFields) : decodeFrame (encodeFrame f) = f := by
  obtain ⟨tc, unnamed17, fault, int, unnamed3, scv, scg, oc⟩ := f
  simp only [decodeFrame, encodeFrame, BitVec.getLsbD_append, FrameFields.mk.injEq]
  refine ⟨?_, by simp, by simp, ?_, by simp, by simp, by simp, by simp⟩
  · iterate 7 rw [BitVec.extractLsb'_append_eq_of_le (by decide)]
    exact BitVec.extractLsb'_eq_self
  · iterate 4 rw [BitVec.extractLsb'_append_eq_of_le (by decide)]
    rw [BitVec.extractLsb'_append_eq_of_add_le (by decide)]
    exact BitVec.extractLsb'_eq_self

end Sys2Proof
end

section
/-! PROOFS. The decoder of the command word and the frame's layout (30_encoding.md R61, R62, R64, R69). -/

namespace Sys2Proof

/-- Settles O4: the table's rows, and the two options are the two bits of the word. -/
theorem commandWordsSelectTheFourForms : Obligations.CommandWordsSelectTheFourForms := by
  refine ⟨rfl, rfl, rfl, rfl, rfl, rfl, rfl, rfl, fun returnInternal raw => ?_⟩
  obtain ⟨h0, h1⟩ := getLsbD_commandWord returnInternal raw
  exact ⟨(raw_decodeCmd _).trans h1, (returnInternal_decodeCmd _).trans h0⟩

/-- Settles O5: what decodes was an encoding, and every encoding decodes. -/
theorem decodeAcceptsExactlyEncodings : Obligations.DecodeAcceptsExactlyEncodings :=
  fun _ i rest => ⟨eq_encode_of_decode, fun h => h ▸ decode_encode i rest⟩

/-- Settles O6: both round trips of the layout. -/
theorem frameFieldsRoundTrip : Obligations.FrameFieldsRoundTrip :=
  ⟨decodeFrame_encodeFrame, encodeFrame_decodeFrame⟩

/-- Settles O9: the line is in the table of mnemonics, and each form's word is made of its two options. -/
theorem plainReadIsReadSingle : Obligations.PlainReadIsReadSingle :=
  ⟨rfl, encodeCmd_eq_commandWord .readSingle, encodeCmd_eq_commandWord .readSingleRaw,
    encodeCmd_eq_commandWord .readPair, encodeCmd_eq_commandWord .readPairRaw⟩

end Sys2Proof
end

section
/-! SUPPORT. The program text: the words of a line are found again, each word means what it was printed for, and so for lines and
programs (30_encoding.md R68; lexical rules of log entry 19). -/

namespace Sys2Proof

/-! ### Words -/

/-- A character that stands inside a word: no blank, and not the start of a comment. -/
def isWordChar (c : Char) : Bool := c != ' ' && c != '\t' && c != ';'

/-- A non-empty run of such characters. -/
def IsWord (w : List Char) : Prop := w ≠ [] ∧ w.all isWordChar = true

/-- The characters of a word go to the word being read. -/
theorem splitWords_append {w : List Char} (hw : w.all isWordChar = true) (cur cs : List Char) :
    splitWords cur (w ++ cs) = splitWords (cur ++ w) cs := by
  induction w generalizing cur with
  | nil => simp
  | cons c w ih =>
    rw [List.all_cons, Bool.and_eq_true] at hw
    obtain ⟨hc, hw⟩ := hw
    have hblank : ¬ (c = ' ' ∨ c = '\t') := by
      simp only [isWordChar, Bool.and_eq_true, bne_iff_ne, ne_eq] at hc
      tauto
    rw [List.cons_append, splitWords, if_neg hblank, ih hw, List.append_assoc]
    rfl

/-- The words of a line of words with a blank between each two. -/
theorem splitWords_intercalate {words : List (List Char)} (h : ∀ w ∈ words, IsWord w) :
    splitWords [] (List.intercalate [' '] words) = words := by
  induction words with
  | nil => rfl
  | cons w words ih =>
    obtain ⟨⟨hne, hw⟩, hwords⟩ := List.forall_mem_cons.mp h
    cases words with
    | nil =>
      rw [List.intercalate_singleton, ← List.append_nil w, splitWords_append hw, List.append_nil, List.nil_append, splitWords, if_neg hne]
    | cons w' words =>
      rw [List.intercalate_cons_cons, List.append_assoc, splitWords_append hw, List.nil_append, List.singleton_append,
        splitWords, if_pos (.inl rfl), if_neg hne, ih hwords]

/-! ### Bytes and mnemonics -/

theorem hexDigit_hexChar (d : BitVec 4) : hexDigit (hexChar d) = some d := by
  revert d; decide

theorem isWordChar_hexChar (d : BitVec 4) : isWordChar (hexChar d) = true := by
  revert d; decide

theorem parseByte_printByte (b : Byte) : parseByte (printByte b) = some b := by
  have hb : b.extractLsb' 4 4 ++ b.extractLsb' 0 4 = b :=
    (BitVec.extractLsb'_append_extractLsb'_eq_extractLsb' rfl).trans BitVec.extractLsb'_eq_self
  simp only [printByte, parseByte, hexDigit_hexChar, hb]

theorem isWord_printByte (b : Byte) : IsWord (printByte b) := by
  exact ⟨List.cons_ne_nil _ _, by simp [printByte, isWordChar_hexChar]⟩

theorem parseMnemonic_mnemonicOf (i : Instr) : parseMnemonic (mnemonicOf i) = some i := by
  cases i <;> decide

theorem isWord_mnemonicOf (i : Instr) : IsWord (mnemonicOf i) := by
  cases i <;> exact ⟨by decide, by decide⟩

/-! ### Lines -/

/-- The words of a statement, as `printLine` writes them. -/
def wordsOf : AsmLine → List (List Char)
  | .busOk b0 b1 b2 b3 => ["BUS".toList, printByte b0, printByte b1, printByte b2, printByte b3]
  | .busErr => ["BUS".toList, "ERR".toList]
  | .read i => [mnemonicOf i]

theorem printLine_busOk (b0 b1 b2 b3 : Byte) : printLine (.busOk b0 b1 b2 b3) =
    "BUS ".toList ++ printByte b0 ++ [' '] ++ printByte b1 ++ [' '] ++ printByte b2 ++ [' '] ++ printByte b3 := rfl
theorem printLine_busErr : printLine .busErr = "BUS ERR".toList := rfl
theorem printLine_read (i : Instr) : printLine (.read i) = mnemonicOf i := rfl

theorem printLine_eq_intercalate (l : AsmLine) : printLine l = List.intercalate [' '] (wordsOf l) := by
  have hbus : "BUS ".toList = "BUS".toList ++ [' '] := by decide
  have hbusErr : "BUS ERR".toList = "BUS".toList ++ [' '] ++ "ERR".toList := by decide
  cases l with
  | busOk b0 b1 b2 b3 =>
    simp only [printLine_busOk, wordsOf, List.intercalate_cons_cons, List.intercalate_singleton, hbus, List.append_assoc]
  | busErr => rw [printLine_busErr, wordsOf, List.intercalate_cons_cons, List.intercalate_singleton, hbusErr]
  | read i => rw [printLine_read, wordsOf, List.intercalate_singleton]

theorem isWord_of_mem_wordsOf (l : AsmLine) : ∀ w ∈ wordsOf l, IsWord w := by
  have hbus : IsWord "BUS".toList := ⟨by decide, by decide⟩
  have herr : IsWord "ERR".toList := ⟨by decide, by decide⟩
  cases l with
  | busOk b0 b1 b2 b3 =>
    simp only [wordsOf, List.forall_mem_cons, hbus, isWord_printByte, List.not_mem_nil, false_imp_iff, implies_true, and_self]
  | busErr => simp only [wordsOf, List.forall_mem_cons, hbus, herr, List.not_mem_nil, false_imp_iff, implies_true, and_self]
  | read i => simp only [wordsOf, List.forall_mem_singleton, isWord_mnemonicOf]

theorem parseWords_wordsOf (l : AsmLine) : parseWords (wordsOf l) = .ok (some l) := by
  cases l with
  | busOk b0 b1 b2 b3 => simp [wordsOf, parseWords, parseByte_printByte]
  | busErr => simp [wordsOf, parseWords]
  | read i => simp [wordsOf, parseWords, parseMnemonic_mnemonicOf]

theorem ne_semicolon_of_isWordChar {c : Char} (h : isWordChar c = true) : (c != ';') = true :=
  (Bool.and_eq_true_iff.mp h).2

/-- No line of words has the start of a comment in it. -/
theorem ne_semicolon_of_mem_intercalate {words : List (List Char)} (h : ∀ w ∈ words, IsWord w) :
    ∀ c ∈ List.intercalate [' '] words, (c != ';') = true := by
  induction words with
  | nil => exact List.forall_mem_nil _
  | cons w words ih =>
    obtain ⟨⟨-, hw⟩, hwords⟩ := List.forall_mem_cons.mp h
    have hfirst : ∀ c ∈ w, (c != ';') = true := fun c hc => ne_semicolon_of_isWordChar (List.all_eq_true.mp hw c hc)
    cases words with
    | nil => rwa [List.intercalate_singleton]
    | cons w' words =>
      rw [List.intercalate_cons_cons, List.forall_mem_append, List.forall_mem_append]
      exact ⟨⟨hfirst, List.forall_mem_singleton.mpr rfl⟩, ih hwords⟩

theorem ne_semicolon_of_mem_printLine (l : AsmLine) : ∀ c ∈ printLine l, (c != ';') = true := by
  rw [printLine_eq_intercalate]
  exact ne_semicolon_of_mem_intercalate (isWord_of_mem_wordsOf l)

theorem stripComment_of_no_semicolon {line : List Char} (h : ∀ c ∈ line, (c != ';') = true) : stripComment line = line :=
  List.takeWhile_eq_self_iff.mpr h

theorem stripComment_comment {line : List Char} (h : ∀ c ∈ line, (c != ';') = true) (comment : List Char) :
    stripComment (line ++ ';' :: comment) = line := by
  rw [stripComment, List.takeWhile_append_of_pos h]
  simp

theorem splitWords_printLine (l : AsmLine) : splitWords [] (printLine l) = wordsOf l := by
  rw [printLine_eq_intercalate, splitWords_intercalate (isWord_of_mem_wordsOf l)]

theorem parseLine_printLine (l : AsmLine) : parseLine (printLine l) = .ok (some l) := by
  rw [parseLine, stripComment_of_no_semicolon (ne_semicolon_of_mem_printLine l), splitWords_printLine, parseWords_wordsOf]

theorem parseLine_comment (l : AsmLine) (comment : List Char) :
    parseLine (printLine l ++ ';' :: comment) = .ok (some l) := by
  rw [parseLine, stripComment_comment (ne_semicolon_of_mem_printLine l), splitWords_printLine, parseWords_wordsOf]

/-! ### Programs -/

theorem parseProgram_printLine (lines : List AsmLine) : parseProgram (lines.map printLine) = .ok lines := by
  induction lines with
  | nil => rfl
  | cons l lines ih => rw [List.map_cons, parseProgram, parseLine_printLine, ih]

/-- A `BUS` line and its `READ` assemble to the call they were printed for, if the error value supplied is the call's. -/
theorem assembleFrom_call {errs : Nat → TransportFault} {k : Nat} {c : HostCall} (lines : List AsmLine)
    (h : ∀ e, c.resp = .err e → errs k = e) :
    assembleFrom errs k (busLine c.resp :: .read (decodeCmd c.cmd) :: lines) =
      (assembleFrom errs (k + 1) lines).map (c :: ·) := by
  obtain ⟨cmd, resp⟩ := c
  cases resp with
  | ok b0 b1 b2 b3 => simp [busLine, assembleFrom]
  | err e =>
    obtain rfl : errs k = e := h e rfl
    simp [busLine, assembleFrom]

theorem assembleFrom_disassemble {errs : Nat → TransportFault} {calls : List HostCall} {k : Nat}
    (h : ∀ j c e, calls[j]? = some c → c.resp = .err e → errs (k + j) = e) :
    assembleFrom errs k (disassemble calls) = some calls := by
  induction calls generalizing k with
  | nil => rfl
  | cons c calls ih =>
    have hfirst : ∀ e, c.resp = .err e → errs k = e := fun e => h 0 c e rfl
    have hrest : ∀ j c e, calls[j]? = some c → c.resp = .err e → errs (k + 1 + j) = e := fun j c' e hc he => by
      rw [Nat.add_assoc, Nat.add_comm 1 j]
      exact h (j + 1) c' e hc he
    rw [disassemble, assembleFrom_call (disassemble calls) hfirst, ih hrest, Option.map_some]

/-- The block of the spec admits every form: its converter is there (00_scope.md R4). -/
theorem wellFormed_eq_true (i : Instr) : i.wellFormed = true := by
  rw [Instr.wellFormed, Instr.wellFormedOn, Config.hasFloat, Bool.or_true]

theorem programWellFormed_disassemble (calls : List HostCall) : programWellFormed (disassemble calls) = true := by
  induction calls with
  | nil => rfl
  | cons c calls ih =>
    obtain ⟨cmd, resp⟩ := c
    cases resp <;> simp [disassemble, busLine, programWellFormed, wellFormed_eq_true, ih]

end Sys2Proof
end

section
/-! PROOFS. The program text and back (30_encoding.md R68). -/

namespace Sys2Proof

/-- Settles O7: the words of the text are found again, with or without the comment, and mean the statement. -/
theorem lineTextRoundTrip : Obligations.LineTextRoundTrip :=
  fun l comment => ⟨parseLine_printLine l, parseLine_comment l comment⟩

/-- Settles O8: line by line for the text, call by call for the assembly, with the calls numbered from 0. -/
theorem programTextRoundTrip : Obligations.ProgramTextRoundTrip := by
  intro calls errs h
  refine ⟨parseProgram_printLine (disassemble calls), assembleFrom_disassemble fun j c e => ?_,
    programWellFormed_disassemble calls⟩
  rw [Nat.zero_add]
  exact h j c e

end Sys2Proof
end

section
/-! SUPPORT. What a form that completed has done, by inversion: it raised the response's first error or it decoded the frame; and what each
of the two ends leaves in the result registers (40_read_operations.md R80, R89; 60_exceptions.md R163). -/

namespace Sys2Proof.Machine

/-! ### The two ends of a `read` -/

section
variable {i : Instr} {s t : State} (ht : exec i s = .next t)
include ht

/-- A completed `read` raised the response's first error, or decoded the frame. -/
theorem exec_cases :
    (∃ k, errorOf (nextResponse s) = some k ∧ t = raiseError k (loaded (nextResponse s) (encodeCmd i) s)) ∨
    (∃ b0 b1 b2 b3, nextResponse s = .ok b0 b1 b2 b3 ∧ errorOf (nextResponse s) = none ∧ t = decodedBy i b0 b1 b2 b3 s) := by
  cases h : errorOf (nextResponse s) with
  | some k => exact .inl ⟨k, rfl, Host.Outcome.next.inj (ht.symm.trans (exec_of_error i h))⟩
  | none =>
    obtain ⟨b0, b1, b2, b3, hr, hk⟩ := ok_of_errorOf_eq_none h
    exact .inr ⟨b0, b1, b2, b3, hr, rfl, Host.Outcome.next.inj (ht.symm.trans (exec_of_no_error i hr hk))⟩

theorem readFrame_of_exec : ReadFrame (encodeCmd i) s t := by
  obtain ⟨t', ht', hframe, -⟩ := exec_always_completes i s
  exact Host.Outcome.next.inj (ht.symm.trans ht') ▸ hframe

theorem buf_of_exec : t.buf = loadFrame s.buf (transferredFrame (nextResponse s) s.draws) := by
  obtain ⟨t', ht', -, hbuf⟩ := exec_always_completes i s
  exact Host.Outcome.next.inj (ht.symm.trans ht') ▸ hbuf

theorem holdsFrame_of_exec : HoldsFrame t.buf (transferredFrame (nextResponse s) s.draws) := by
  rw [buf_of_exec ht]
  exact frameOf_loadFrame s.buf _

end

/-! ### The result registers after a decode -/

section
variable (i : Instr) (b0 b1 b2 b3 : Byte) (s : State)

theorem decodedBy_status : (decodedBy i b0 b1 b2 b3 s).status = packStatus (encodeCmd i) true codeOk :=
  (decodedBy_decodedState i b0 b1 b2 b3 s).1

theorem decodedBy_errValue : (decodedBy i b0 b1 b2 b3 s).errValue = none := (decodedBy_decodedState i b0 b1 b2 b3 s).2.1

theorem decodedBy_x0 : (decodedBy i b0 b1 b2 b3 s).x0 =
    if i.raw then some (toBits32 (fieldTC (b0 ++ b1 ++ b2 ++ b3))) else none := by
  cases i <;> rfl

theorem decodedBy_x1 : (decodedBy i b0 b1 b2 b3 s).x1 =
    if i.raw && i.returnInternal then some (toBits32 (fieldINT (b0 ++ b1 ++ b2 ++ b3))) else none := by
  cases i <;> rfl

theorem decodedBy_f0 : (decodedBy i b0 b1 b2 b3 s).f0 =
    if i.raw then none else some (scaleTC (fieldTC (b0 ++ b1 ++ b2 ++ b3))) := by
  cases i <;> rfl

theorem decodedBy_f1 : (decodedBy i b0 b1 b2 b3 s).f1 =
    if !i.raw && i.returnInternal then some (scaleINT (fieldINT (b0 ++ b1 ++ b2 ++ b3))) else none := by
  cases i <;> rfl

end

/-! ### The error kinds and their codes -/

theorem errorCode_ne_codeOk (k : ErrorKind) : errorCode k ≠ codeOk := by
  cases k <;> simp [errorCode, codeOk]

theorem errorCode_le (k : ErrorKind) : (errorCode k).toNat ≤ 5 := by
  cases k <;> simp [errorCode]

/-- Only `TransportError` has code 5, and only it hands a value over (60_exceptions.md R160). -/
theorem handedValue_isSome (k : ErrorKind) : (handedValue k).isSome = (errorCode k == 5#3) := by
  cases k <;> rfl

theorem errorOfCode_errorCode (k : ErrorKind) : errorOfCode (errorCode k) (handedValue k) = some k := by
  cases k <;> rfl

/-! ### The result registers follow the status -/

theorem resultsFollowStatus_of_noResult {s : State} (hno : NoResult s)
    (hfail : (statusDone s.status && statusCode s.status == codeOk) = false) : ResultsFollowStatus s := by
  obtain ⟨hx0, hx1, hf0, hf1⟩ := hno
  constructor
  · simp [hx0, hfail]
  · simp [hx1, hfail]
  · simp [hf0, hfail]
  · simp [hf1, hfail]

theorem resultsFollowStatus_decodedBy (i : Instr) (b0 b1 b2 b3 : Byte) (s : State) :
    ResultsFollowStatus (decodedBy i b0 b1 b2 b3 s) := by
  have hstatus := decodedBy_status i b0 b1 b2 b3 s
  constructor <;> rw [hstatus, statusDone_pack, statusCode_pack, statusShape_pack] <;> cases i <;> rfl

theorem resultsInRange_of_noResult {s : State} (hno : NoResult s) : ResultsInRange s := by
  obtain ⟨hx0, hx1, hf0, hf1⟩ := hno
  constructor
  · simp [hx0]
  · simp [hx1]
  · simp [hf0]
  · simp [hf1]

theorem resultsInRange_decodedBy (i : Instr) (b0 b1 b2 b3 : Byte) (s : State) :
    ResultsInRange (decodedBy i b0 b1 b2 b3 s) := by
  obtain ⟨htcl, htcu⟩ := fieldTC_range (b0 ++ b1 ++ b2 ++ b3)
  obtain ⟨hintl, hintu⟩ := fieldINT_range (b0 ++ b1 ++ b2 ++ b3)
  constructor
  · rintro v hv
    rw [decodedBy_x0, Option.ite_none_right_eq_some] at hv
    obtain ⟨-, hv⟩ := hv
    rw [← Option.some.inj hv, toInt_toBits32_fieldTC]
    exact ⟨htcl, htcu⟩
  · rintro v hv
    rw [decodedBy_x1, Option.ite_none_right_eq_some] at hv
    obtain ⟨-, hv⟩ := hv
    rw [← Option.some.inj hv, toInt_toBits32_fieldINT]
    exact ⟨hintl, hintu⟩
  · rintro v hv
    rw [decodedBy_f0, Option.ite_none_left_eq_some] at hv
    obtain ⟨-, hv⟩ := hv
    exact ⟨_, htcl, htcu, (Option.some.inj hv).symm⟩
  · rintro v hv
    rw [decodedBy_f1, Option.ite_none_right_eq_some] at hv
    obtain ⟨-, hv⟩ := hv
    exact ⟨_, hintl, hintu, (Option.some.inj hv).symm⟩

/-! ### The report of a `read`, by its response -/

/-- The code of a response: that of its first error, 0 without one. -/
def codeOf (r : BusResponse) : BitVec 3 := ((errorOf r).map errorCode).getD codeOk

theorem codeOf_of_error {r : BusResponse} {k : ErrorKind} (h : errorOf r = some k) : codeOf r = errorCode k := by
  rw [codeOf, h]
  rfl

theorem codeOf_of_no_error {r : BusResponse} (h : errorOf r = none) : codeOf r = codeOk := by
  rw [codeOf, h]
  rfl

theorem codeOf_eq_codeOk_iff (r : BusResponse) : codeOf r = codeOk ↔ errorOf r = none := by
  cases h : errorOf r with
  | some k => simp [codeOf_of_error h, errorCode_ne_codeOk]
  | none => simp [codeOf_of_no_error h]

theorem codeOf_le (r : BusResponse) : (codeOf r).toNat ≤ 5 := by
  cases h : errorOf r with
  | some k => exact codeOf_of_error h ▸ errorCode_le k
  | none => exact codeOf_of_no_error h ▸ by decide

/-- A value is handed over exactly with code 5. -/
theorem handed_iff_codeOf (r : BusResponse) : ((errorOf r).bind handedValue).isSome = (codeOf r == 5#3) := by
  cases h : errorOf r with
  | some k => rw [codeOf_of_error h, Option.bind_some, handedValue_isSome]
  | none => rw [codeOf_of_no_error h]; rfl

section
variable {i : Instr} {s t : State} (ht : exec i s = .next t)
include ht

theorem status_of_exec : t.status = packStatus (encodeCmd i) true (codeOf (nextResponse s)) := by
  obtain ⟨k, hk, rfl⟩ | ⟨b0, b1, b2, b3, -, hk, rfl⟩ := exec_cases ht
  · rw [raiseError_status, loaded_status, withCode_withStart, codeOf_of_error hk]
  · rw [decodedBy_status, codeOf_of_no_error hk]

theorem errValue_of_exec : t.errValue = (errorOf (nextResponse s)).bind handedValue := by
  obtain ⟨k, hk, rfl⟩ | ⟨b0, b1, b2, b3, -, hk, rfl⟩ := exec_cases ht
  · rw [raiseError_errValue, hk, Option.bind_some]
  · rw [decodedBy_errValue, hk, Option.bind_none]

theorem results_of_exec : ResultsFollowStatus t ∧ ResultsInRange t := by
  obtain ⟨k, hk, rfl⟩ | ⟨b0, b1, b2, b3, -, -, rfl⟩ := exec_cases ht
  · obtain ⟨hstatus, hno, -⟩ := raisedState_loaded (encodeCmd i) k (nextResponse s) s
    refine ⟨resultsFollowStatus_of_noResult hno ?_, resultsInRange_of_noResult hno⟩
    rw [hstatus, statusDone_pack, statusCode_pack, Bool.true_and]
    exact beq_false_of_ne (errorCode_ne_codeOk k)
  · exact ⟨resultsFollowStatus_decodedBy i b0 b1 b2 b3 s, resultsInRange_decodedBy i b0 b1 b2 b3 s⟩

theorem sameReport_of_exec {s' t' : State} (ht' : exec i s' = .next t') (hr : nextResponse s = nextResponse s') :
    SameReport t t' := by
  obtain ⟨u, u', hu, hu', hsame, -⟩ := readDependsOnTheResponseAlone i s s' hr
  obtain rfl := Host.Outcome.next.inj (ht.symm.trans hu)
  obtain rfl := Host.Outcome.next.inj (ht'.symm.trans hu')
  exact hsame

end

end Sys2Proof.Machine
end

section
/-! SUPPORT. What a step does with the host's next call, and what it leaves (10_state.md sections 3 and 8, 70_reset_and_hazards.md R194). -/

namespace Sys2Proof.Machine

/-- The state in which the form of the host's next call runs: its word in `CMD`, its response fixed, the call off the list. -/
def called (s : State) (c : HostCall) (rest : List HostCall) : State :=
  { s with cmd := c.cmd, program := rest, bus := some c.resp }

@[simp] theorem nextResponse_called (s : State) (c : HostCall) (rest : List HostCall) :
    nextResponse (called s c rest) = c.resp := rfl

theorem step_idle {s : State} (h : s.program = []) : step s = .next s := by
  rw [step, fetchCall_idle h]

theorem step_call {s : State} {c : HostCall} {rest : List HostCall} (h : s.program = c :: rest) :
    step s = exec (decodeCmd c.cmd) (called s c rest) := by
  rw [step, fetchCall_call h]
  rfl

/-- What a step that ran a call has left: the report's fields as every `read` leaves them, for the call's word and response. -/
theorem step_call_completes {s : State} {c : HostCall} {rest : List HostCall} (h : s.program = c :: rest) :
    ∃ t, step s = .next t ∧ exec (decodeCmd c.cmd) (called s c rest) = .next t ∧ ReadFrame c.cmd (called s c rest) t := by
  obtain ⟨t, ht, hframe, -⟩ := exec_always_completes (decodeCmd c.cmd) (called s c rest)
  rw [encodeCmd_decodeCmd] at hframe
  exact ⟨t, (step_call h).trans ht, ht, hframe⟩

theorem step_completes (s : State) : ∃ t, step s = .next t := by
  cases h : s.program with
  | nil => exact ⟨s, step_idle h⟩
  | cons c rest =>
    obtain ⟨t, ht, -⟩ := step_call_completes h
    exact ⟨t, ht⟩

/-! ### The invariant -/

/-- One more `read` is one more bracket. -/
theorem brackets_succ (n : Nat) : brackets (n + 1) = brackets n ++ bracket := by
  simp [brackets, List.replicate_succ']

/-- Nothing the invariant speaks of is changed by taking a call off the list. -/
theorem called_keeps_inv {s : State} (c : HostCall) (rest : List HostCall) (h : Inv s) : Inv (called s c rest) :=
  ⟨h.buf_wf, h.buf_loaded, h.cs_high, h.trace_bracketed, h.done_iff_read, h.status_before_read, h.code_legal, h.handed_iff,
    ⟨h.results.x0_held, h.results.x1_held, h.results.f0_held, h.results.f1_held⟩,
    ⟨h.ranges.x0_range, h.ranges.x1_range, h.ranges.f0_range, h.ranges.f1_range⟩⟩

/-- A `read` establishes the invariant anew; of the state before it needs the form of the buffer and of the trace only. -/
theorem exec_keeps_inv {i : Instr} {s t : State} (h : Inv s) (ht : exec i s = .next t) : Inv t := by
  have hframe := readFrame_of_exec ht
  have hstatus := status_of_exec ht
  obtain ⟨hresults, hranges⟩ := results_of_exec ht
  obtain ⟨n, hn⟩ := h.trace_bracketed
  exact {
    buf_wf := buf_of_exec ht ▸ loadFrame_wf _ h.buf_wf
    buf_loaded := fun _ => ⟨_, holdsFrame_of_exec ht⟩
    cs_high := hframe.cs_high
    trace_bracketed := ⟨n + 1, by rw [hframe.trace_grown, hn, brackets_succ]⟩
    done_iff_read := by rw [hframe.done_set, hframe.trace_grown]; simp [bracket]
    status_before_read := fun hdone => absurd hframe.done_set (by simp [hdone])
    code_legal := by rw [hstatus, statusCode_pack]; exact codeOf_le _
    handed_iff := by rw [errValue_of_exec ht, hstatus, statusCode_pack, handed_iff_codeOf]
    results := hresults
    ranges := hranges }

theorem step_keeps_inv {s t : State} (h : Inv s) (ht : step s = .next t) : Inv t := by
  cases hp : s.program with
  | nil => exact Host.Outcome.next.inj ((step_idle hp).symm.trans ht) ▸ h
  | cons c rest => exact exec_keeps_inv (called_keeps_inv c rest h) ((step_call hp).symm.trans ht)

theorem initialise_status (s : State) : (initialise s).status = 0#6 := rfl

theorem initialise_noResult (s : State) : NoResult (initialise s) := ⟨rfl, rfl, rfl, rfl⟩

theorem initialise_meets_inv {s : State} (h : s.cs = .high) : Inv (initialise s) := by
  have hdone : statusDone (initialise s).status = false := by rw [initialise_status]; decide
  have hcode : statusCode (initialise s).status = 0#3 := by rw [initialise_status]; decide
  exact {
    buf_wf := rfl
    buf_loaded := fun hread => absurd hread (by simp [hdone])
    cs_high := h
    trace_bracketed := ⟨0, rfl⟩
    done_iff_read := hdone
    status_before_read := fun _ => initialise_status s
    code_legal := by rw [hcode]; decide
    handed_iff := by rw [hcode]; rfl
    results := resultsFollowStatus_of_noResult (initialise_noResult s) (by rw [hdone, Bool.false_and])
    ranges := resultsInRange_of_noResult (initialise_noResult s) }

end Sys2Proof.Machine
end

section
/-! PROOFS. The invariant, from reset on and through every step (10_state.md sections 1 to 12, 70_reset_and_hazards.md sections 1 and 4). -/

namespace Sys2Proof.Machine

/-- Settles O47: a step waits, or takes a call off the list and runs a `read`, which establishes the invariant anew. -/
theorem stepKeepsInvariant : Obligations.StepKeepsInvariant := fun _ _ => step_keeps_inv

/-- Settles O2: the reset state is its own initialisation. -/
theorem resetMeetsInvariant : Obligations.ResetMeetsInvariant := initialise_meets_inv (s := State.reset) rfl

/-- Settles O3: the kept fields and the reset values stand in the definition; the invariant is the lemma's. -/
theorem initialisationResetsTheBlockAndDrivesNothing : Obligations.InitialisationResetsTheBlockAndDrivesNothing :=
  fun s => ⟨rfl, rfl, rfl, rfl, initialise_status s, initialise_noResult s, rfl, rfl, rfl, initialise_meets_inv⟩

/-- Settles O1: the reset table, and an empty buffer at each of its four addresses. -/
theorem resetHoldsTheResetValues : Obligations.ResetHoldsTheResetValues := by
  refine ⟨rfl, initialise_noResult State.reset, by decide, by decide, by decide, rfl, rfl, fun a ha => ?_, rfl, rfl, rfl, rfl⟩
  rw [readByte, if_pos ha]
  rfl

end Sys2Proof.Machine
end

section
/-! SUPPORT. Frames alike under the mask of the named bits, and what the report of each end of a `read` is made of (30_encoding.md R65,
42_fault_check_and_extract.md R130). -/

namespace Sys2Proof.Machine

/-- A frame sent as four bytes arrives as the frame (00_scope.md R5). -/
theorem responseOfFrame_joined (w : Frame) :
    (w.extractLsb' 24 8 ++ w.extractLsb' 16 8 ++ w.extractLsb' 8 8 ++ w.extractLsb' 0 8 : Frame) = w := by
  iterate 3 rw [BitVec.extractLsb'_append_extractLsb'_eq_extractLsb']
  exact BitVec.extractLsb'_eq_self
  all_goals rfl

theorem errorOf_responseOfFrame (w : Frame) : errorOf (responseOfFrame w) = faultCheckFrame w := by
  rw [responseOfFrame, errorOf, responseOfFrame_joined]

/-- The mask leaves out the two unnamed bits and no other (30_encoding.md R65). -/
theorem namedMask_getLsbD {i : Nat} (hi : i < 32) : (0xFFFDFFF7#32).getLsbD i = decide (i ≠ 17 ∧ i ≠ 3) := by
  revert i; decide

section
variable {w w' : Frame} (h : w &&& 0xFFFDFFF7#32 = w' &&& 0xFFFDFFF7#32)
include h

theorem getLsbD_eq_of_named {i : Nat} (hi : i < 32) (hne : i ≠ 17 ∧ i ≠ 3) : w.getLsbD i = w'.getLsbD i :=
  getLsbD_eq_of_and_eq h (by rw [namedMask_getLsbD hi, decide_eq_true hne])

theorem faultCheckFrame_eq_of_named : faultCheckFrame w = faultCheckFrame w' := by
  rw [faultCheckFrame_eq, faultCheckFrame_eq, getLsbD_eq_of_named h (i := 0) (by decide) (by decide),
    getLsbD_eq_of_named h (i := 1) (by decide) (by decide), getLsbD_eq_of_named h (i := 2) (by decide) (by decide),
    getLsbD_eq_of_named h (i := 16) (by decide) (by decide)]

/-- A slice that holds neither unnamed bit is the same of both frames. -/
theorem extract_eq_of_named {a b : Nat} (hb : a + b ≤ 32) (h17 : a + b ≤ 17 ∨ 17 < a) (h3 : a + b ≤ 3 ∨ 3 < a) :
    w.extractLsb' a b = w'.extractLsb' a b := by
  apply BitVec.eq_of_getLsbD_eq
  intro i hi
  rw [BitVec.getLsbD_extractLsb', BitVec.getLsbD_extractLsb', getLsbD_eq_of_named h (by omega) (by omega)]

theorem fieldTC_eq_of_named : fieldTC w = fieldTC w' :=
  congrArg BitVec.toInt (extract_eq_of_named h (a := 18) (b := 14) (by decide) (by decide) (by decide))

theorem fieldINT_eq_of_named : fieldINT w = fieldINT w' :=
  congrArg BitVec.toInt (extract_eq_of_named h (a := 4) (b := 12) (by decide) (by decide) (by decide))

end

/-- The report of a decode is made of the form and the two fields. -/
theorem decodedBy_sameReport_of_fields (i : Instr) {b0 b1 b2 b3 b0' b1' b2' b3' : Byte} (s s' : State)
    (htc : fieldTC (b0 ++ b1 ++ b2 ++ b3) = fieldTC (b0' ++ b1' ++ b2' ++ b3'))
    (hint : fieldINT (b0 ++ b1 ++ b2 ++ b3) = fieldINT (b0' ++ b1' ++ b2' ++ b3')) :
    SameReport (decodedBy i b0 b1 b2 b3 s) (decodedBy i b0' b1' b2' b3' s') := by
  refine ⟨?_, ?_, ?_, ?_, ?_, ?_⟩
  · rw [decodedBy_x0, decodedBy_x0, htc]
  · rw [decodedBy_x1, decodedBy_x1, hint]
  · rw [decodedBy_f0, decodedBy_f0, htc]
  · rw [decodedBy_f1, decodedBy_f1, hint]
  · rw [decodedBy_status, decodedBy_status]
  · rw [decodedBy_errValue, decodedBy_errValue]

/-- The report of a raise is made of the form and the kind. -/
theorem raiseError_sameReport_of_kind (k : ErrorKind) (r r' : BusResponse) (c : Cmd) (s s' : State) :
    SameReport (raiseError k (loaded r c s)) (raiseError k (loaded r' c s')) := by
  simp [SameReport]

end Sys2Proof.Machine
end

section
/-! PROOFS. The frame of the four forms, the errors, and the bits no form reads (40_read_operations.md section 6, 60_exceptions.md,
30_encoding.md section 4). -/

namespace Sys2Proof.Machine

/-- Settles O26: every `read` keeps its frame and stores the transferred one; a raise leaves every result register empty, a decode
those that are not the form's. -/
theorem readFrameOfEveryForm : Obligations.ReadFrameOfEveryForm := by
  intro i s t ht
  refine ⟨readFrame_of_exec ht, holdsFrame_of_exec ht, ?_⟩
  obtain ⟨k, -, rfl⟩ | ⟨b0, b1, b2, b3, -, -, rfl⟩ := exec_cases ht
  · exact ⟨fun _ _ => rfl, fun _ => rfl, fun _ _ => rfl, fun _ => rfl⟩
  · rw [decodedBy_x0, decodedBy_x1, decodedBy_f0, decodedBy_f1]
    cases i <;> simp [Instr.raw, Instr.returnInternal]

/-- Settles O30: `TransportError` is the response's first error, whatever the form and whatever the buffer got. -/
theorem failedTransferIsNeverDecoded : Obligations.FailedTransferIsNeverDecoded := by
  intro i s e hr
  have herr : errorOf (nextResponse s) = some (.transportError e) := by rw [hr]; rfl
  obtain ⟨t, ht, hstatus, hno, hvalue, hframe⟩ := exec_raises i herr
  exact ⟨t, ht, hstatus, hno, hvalue, hframe.cs_high, hframe.trace_grown, _, holdsFrame_of_exec ht⟩

/-- Settles O32: the definition, with the write of `CODE` spelt out. -/
theorem raiseWritesTheCodeOnly : Obligations.RaiseWritesTheCodeOnly := fun _ _ => rfl

/-- Settles O33: the code and the handed value are inverted by the host's `errorOfCode`, so they are injective together. -/
theorem errorKindIsRecovered : Obligations.ErrorKindIsRecovered := by
  refine ⟨errorOfCode_errorCode, fun k => ⟨errorCode_ne_codeOk k, errorCode_le k⟩, fun k k' hcode hvalue => ?_⟩
  have h := errorOfCode_errorCode k
  rw [hcode, hvalue, errorOfCode_errorCode] at h
  exact (Option.some.inj h).symm

/-- Settles O34: the registers of both ends of a `read`, and the code of the response. -/
theorem onlyTheShapeHoldsResults : Obligations.OnlyTheShapeHoldsResults := by
  intro i s t ht
  obtain ⟨hresults, -⟩ := results_of_exec ht
  refine ⟨hresults, ?_⟩
  rw [status_of_exec ht, statusCode_pack, codeOf_eq_codeOk_iff]

/-- Settles O37: the fault bits and the two fields lie under the mask, so both responses raise the same kind or decode the same fields. -/
theorem unnamedFrameBitsAreIgnored : Obligations.UnnamedFrameBitsAreIgnored := by
  intro i s s' w w' hr hr' hw
  have hfault : errorOf (nextResponse s) = faultCheckFrame w := by rw [hr, errorOf_responseOfFrame]
  have hfault' : errorOf (nextResponse s') = faultCheckFrame w := by
    rw [hr', errorOf_responseOfFrame, faultCheckFrame_eq_of_named hw]
  cases hk : faultCheckFrame w with
  | some k =>
    exact ⟨_, _, exec_of_error i (hfault.trans hk), exec_of_error i (hfault'.trans hk),
      raiseError_sameReport_of_kind k _ _ (encodeCmd i) s s'⟩
  | none =>
    have hk' : faultCheckFrame w' = none := faultCheckFrame_eq_of_named hw ▸ hk
    refine ⟨_, _, exec_of_no_error i hr (by rwa [responseOfFrame_joined]),
      exec_of_no_error i hr' (by rwa [responseOfFrame_joined]), decodedBy_sameReport_of_fields i s s' ?_ ?_⟩
    · rw [responseOfFrame_joined, responseOfFrame_joined, fieldTC_eq_of_named hw]
    · rw [responseOfFrame_joined, responseOfFrame_joined, fieldINT_eq_of_named hw]

/-- Settles O38: the arms of the scaled forms test for the converter, those of the raw forms do not. -/
theorem scaledFormsNeedTheConverter : Obligations.ScaledFormsNeedTheConverter := by
  intro i s
  refine ⟨fun hraw => ?_, fun hraw => ?_, ?_, Bool.or_false _, wellFormed_eq_true i⟩
  · cases i with
    | readSingle | readPair => rfl
    | readSingleRaw | readPairRaw => cases hraw
  · cases i with
    | readSingle | readPair => cases hraw
    | readSingleRaw | readPairRaw => rfl
  · cases i <;> rfl

end Sys2Proof.Machine
end

section
/-! SUPPORT. What the host gets: a register read, and the tagged result, which is the document's `read` of the response
(10_state.md sections 5 to 7, 41_transaction_sequence.md R109, 60_exceptions.md R161). -/

namespace Sys2Proof.Machine

@[simp] theorem readHeld_none {α : Type} (r : ResultReg) : readHeld r (none : Option α) = .fault (.registerHoldsNone r) := rfl
@[simp] theorem readHeld_some {α : Type} (r : ResultReg) (v : α) : readHeld r (some v) = .next v := rfl

theorem hostReadF0_eq (s : State) : hostReadF0 s = readHeld .f0 s.f0 := rfl
theorem hostReadF1_eq (s : State) : hostReadF1 s = readHeld .f1 s.f1 := rfl

/-! ### The tagged result -/

theorem hostTakeResult_not_done {s : State} (h : statusDone s.status = false) : hostTakeResult s = none := by
  simp [hostTakeResult, h]

theorem hostTakeResult_ok {s : State} (h : statusDone s.status = true) (hcode : statusCode s.status = codeOk) :
    hostTakeResult s = (readingOfShape (statusShape s.status) s).map .reading := by
  simp [hostTakeResult, h, hcode]

theorem hostTakeResult_error {s : State} (h : statusDone s.status = true) (hcode : statusCode s.status ≠ codeOk) :
    hostTakeResult s = (errorOfCode (statusCode s.status) s.errValue).map .error := by
  simp [hostTakeResult, h, hcode]

/-- A code of an error, with its value when it has one, always names a kind (60_exceptions.md R164). -/
theorem errorOfCode_isSome {code : BitVec 3} {handed : Option TransportFault} (hcode : code ≠ codeOk) (hle : code.toNat ≤ 5)
    (hhanded : handed.isSome = (code == 5#3)) : (errorOfCode code handed).isSome = true := by
  have hall : ∀ c : BitVec 3, c ≠ 0#3 → c.toNat ≤ 5 → c = 1#3 ∨ c = 2#3 ∨ c = 3#3 ∨ c = 4#3 ∨ c = 5#3 := by decide
  obtain rfl | rfl | rfl | rfl | rfl := hall code hcode hle
  · rfl
  · rfl
  · rfl
  · rfl
  · rw [show errorOfCode 5#3 handed = handed.map .transportError from rfl, Option.isSome_map, hhanded]
    rfl

/-- The registers of the shape hold a value when the registers follow a status of success (40_read_operations.md R89). -/
theorem readingOfShape_isSome {s : State} (h : ResultsFollowStatus s) (hdone : statusDone s.status = true)
    (hcode : statusCode s.status = codeOk) : (readingOfShape (statusShape s.status) s).isSome = true := by
  obtain ⟨hx0, hx1, hf0, hf1⟩ := h
  rw [hdone, hcode, ← encodeCmd_decodeCmd (statusShape s.status)] at hx0 hx1 hf0 hf1
  rw [readingOfShape]
  cases hi : decodeCmd (statusShape s.status) with
  | readSingle =>
    rw [hi] at hf0
    obtain ⟨tc, htc⟩ := Option.isSome_iff_exists.mp (hf0.trans (by decide))
    rw [htc]
    rfl
  | readSingleRaw =>
    rw [hi] at hx0
    obtain ⟨tc, htc⟩ := Option.isSome_iff_exists.mp (hx0.trans (by decide))
    rw [htc]
    rfl
  | readPair =>
    rw [hi] at hf0 hf1
    obtain ⟨tc, htc⟩ := Option.isSome_iff_exists.mp (hf0.trans (by decide))
    obtain ⟨int, hint⟩ := Option.isSome_iff_exists.mp (hf1.trans (by decide))
    rw [htc, hint]
    rfl
  | readPairRaw =>
    rw [hi] at hx0 hx1
    obtain ⟨tc, htc⟩ := Option.isSome_iff_exists.mp (hx0.trans (by decide))
    obtain ⟨int, hint⟩ := Option.isSome_iff_exists.mp (hx1.trans (by decide))
    rw [htc, hint]
    rfl

theorem hostTakeResult_isSome {s : State} (h : Inv s) : (hostTakeResult s).isSome = statusDone s.status := by
  cases hdone : statusDone s.status with
  | false => rw [hostTakeResult_not_done hdone]; rfl
  | true =>
    by_cases hcode : statusCode s.status = codeOk
    · rw [hostTakeResult_ok hdone hcode, Option.isSome_map, readingOfShape_isSome h.results hdone hcode]
    · rw [hostTakeResult_error hdone hcode, Option.isSome_map, errorOfCode_isSome hcode h.code_legal h.handed_iff]

/-! ### The document's `read` -/

theorem documentRead_of_error {r : BusResponse} {k : ErrorKind} (returnInternal raw : Bool) (h : errorOf r = some k) :
    documentRead returnInternal raw r = .error k := by
  cases r with
  | err e => cases h; rfl
  | ok b0 b1 b2 b3 =>
    rw [errorOf, faultCheckFrame_eq] at h
    rw [documentRead]
    split_ifs at h ⊢ <;> cases h <;> rfl

theorem documentRead_of_no_error {b0 b1 b2 b3 : Byte} (returnInternal raw : Bool)
    (h : faultCheckFrame (b0 ++ b1 ++ b2 ++ b3) = none) : documentRead returnInternal raw (.ok b0 b1 b2 b3) =
      .reading (documentReading returnInternal raw (b0 ++ b1 ++ b2 ++ b3)) := by
  obtain ⟨h0, h1, h2, h16⟩ := (faultCheckFrame_eq_none_iff_bits _).mp h
  simp only [documentRead, h0, h1, h2, h16, Bool.false_eq_true, if_false]

/-- The registers after a decode, taken by the shape, are the document's reading of the frame. -/
theorem readingOfShape_decodedBy (i : Instr) (b0 b1 b2 b3 : Byte) (s : State) :
    readingOfShape (encodeCmd i) (decodedBy i b0 b1 b2 b3 s) =
      some (documentReading i.returnInternal i.raw (b0 ++ b1 ++ b2 ++ b3)) := by
  rw [readingOfShape, decodeCmd_encodeCmd, decodedBy_x0, decodedBy_x1, decodedBy_f0, decodedBy_f1]
  cases i <;> rfl

/-- After any `read` the host takes what the document's function gives for the form's options and the response. -/
theorem hostTakeResult_of_exec {i : Instr} {s t : State} (ht : exec i s = .next t) :
    hostTakeResult t = some (documentRead i.returnInternal i.raw (nextResponse s)) := by
  have hdone : statusDone t.status = true := (readFrame_of_exec ht).done_set
  obtain ⟨k, hk, rfl⟩ | ⟨b0, b1, b2, b3, hr, hk, rfl⟩ := exec_cases ht
  · obtain ⟨hstatus, -, hvalue, -⟩ := raisedState_loaded (encodeCmd i) k (nextResponse s) s
    rw [hostTakeResult_error hdone (by rw [hstatus, statusCode_pack]; exact errorCode_ne_codeOk k), hstatus, statusCode_pack,
      hvalue, errorOfCode_errorCode, documentRead_of_error _ _ hk, Option.map_some]
  · rw [hr] at hk ⊢
    rw [hostTakeResult_ok hdone (by rw [decodedBy_status, statusCode_pack]), decodedBy_status, statusShape_pack,
      readingOfShape_decodedBy, documentRead_of_no_error _ _ hk, Option.map_some]

end Sys2Proof.Machine
end

section
/-! SUPPORT. Runs, one call after the other, `STATUS` as a number, and the renaming of error values (70_reset_and_hazards.md R194,
10_state.md R26, 92_eei_decisions.md D13). -/

namespace Sys2Proof.Machine

/-! ### Runs -/

/-- A run over the whole list: each step takes one call, appends one bracket and makes one transfer. -/
theorem run_program (s : State) : ∃ t, Host.Core.run Sys2Proof.core s.program.length s = .next t ∧ t.program = [] ∧
    t.trace = s.trace ++ brackets s.program.length ∧ t.draws = s.draws + s.program.length ∧
    (s.cs = .high ∨ s.program ≠ [] → t.cs = .high) := by
  generalize hp : s.program = calls
  induction calls generalizing s with
  | nil => exact ⟨s, rfl, hp, (List.append_nil s.trace).symm, rfl, fun h => h.resolve_right (fun hne => hne rfl)⟩
  | cons c rest ih =>
    obtain ⟨u, hu, -, hframe⟩ := step_call_completes hp
    obtain ⟨t, hrun, hprogram, htrace, hdraws, hcs⟩ := ih u hframe.program_kept
    refine ⟨t, (run_succ rest.length hu).trans hrun, hprogram, ?_, ?_, fun _ => hcs (.inl hframe.cs_high)⟩
    · rw [htrace, hframe.trace_grown, List.append_assoc, List.length_cons, brackets, brackets, List.replicate_succ, List.flatten_cons]
      rfl
    · rw [hdraws, hframe.draw_counted, List.length_cons, Nat.add_assoc, Nat.add_comm 1]
      rfl

/-- A run over a list that ends in `c` ends with the step of `c`, from some state. -/
theorem run_last_call {s : State} {calls : List HostCall} {c : HostCall} (hp : s.program = calls ++ [c]) :
    ∃ u t, exec (decodeCmd c.cmd) (called u c []) = .next t ∧ Host.Core.run Sys2Proof.core (calls.length + 1) s = .next t := by
  induction calls generalizing s with
  | nil =>
    obtain ⟨t, ht, hexec, -⟩ := step_call_completes hp
    exact ⟨s, t, hexec, run_succ 0 ht⟩
  | cons b calls ih =>
    obtain ⟨v, hv, -, hframe⟩ := step_call_completes hp
    obtain ⟨u, t, hexec, hrun⟩ := ih hframe.program_kept
    exact ⟨u, t, hexec, (run_succ (calls.length + 1) hv).trans hrun⟩

/-! ### `STATUS` as a number -/

/-- The register as a number, its three fields one above the other (10_state.md R26). -/
theorem packStatus_toNat (c : Cmd) (code : BitVec 3) : (packStatus c true code).toNat = 16 * c.toNat + 8 + code.toNat := by
  revert c code; decide

/-! ### Renaming error values -/

/-- A kind with the error value in it renamed. -/
def renameKind (g : TransportFault → TransportFault) : ErrorKind → ErrorKind
  | .transportError e => .transportError (g e)
  | k => k

section
variable (g : TransportFault → TransportFault)

theorem errorCode_renameKind (k : ErrorKind) : errorCode (renameKind g k) = errorCode k := by
  cases k <;> rfl

theorem handedValue_renameKind (k : ErrorKind) : handedValue (renameKind g k) = (handedValue k).map g := by
  cases k <;> rfl

/-- The fault check makes no error value. -/
theorem renameKind_of_faultCheckFrame {w : Frame} {k : ErrorKind} (h : faultCheckFrame w = some k) : renameKind g k = k := by
  have hvalue := faultCheckFrame_kinds h
  cases k with
  | transportError e => cases hvalue
  | openCircuit | shortToGround | shortToPower | faultyReading => rfl

theorem errorOf_renameResponse (r : BusResponse) : errorOf (renameResponse g r) = (errorOf r).map (renameKind g) := by
  cases r with
  | err e => rfl
  | ok b0 b1 b2 b3 =>
    rw [renameResponse]
    cases h : errorOf (.ok b0 b1 b2 b3) with
    | none => rfl
    | some k => rw [Option.map_some, renameKind_of_faultCheckFrame g h]

/-- The frame a transfer stores does not depend on the error value. -/
theorem transferredFrame_renameResponse (r : BusResponse) (draw : Nat) :
    transferredFrame (renameResponse g r) draw = transferredFrame r draw := by
  cases r <;> rfl

theorem loaded_renameFaults (r : BusResponse) (c : Cmd) (s : State) :
    loaded (renameResponse g r) c (renameFaults g s) = renameFaults g (loaded r c s) := by
  simp only [loaded, renameFaults, transferredFrame_renameResponse, Option.map_none]

theorem raiseError_renameFaults (k : ErrorKind) (s : State) :
    raiseError (renameKind g k) (renameFaults g s) = renameFaults g (raiseError k s) := by
  simp only [raiseError, renameFaults, errorCode_renameKind, handedValue_renameKind]

theorem decodedBy_renameFaults (i : Instr) (b0 b1 b2 b3 : Byte) (s : State) :
    decodedBy i b0 b1 b2 b3 (renameFaults g s) = renameFaults g (decodedBy i b0 b1 b2 b3 s) := by
  cases i <;> rfl

/-- The renamed form of a call runs in the renamed state. -/
theorem called_renameFaults (s : State) (c : HostCall) (rest : List HostCall) :
    called (renameFaults g s) ⟨c.cmd, renameResponse g c.resp⟩ (rest.map fun d => { d with resp := renameResponse g d.resp }) =
      renameFaults g (called s c rest) := rfl

/-- With the response fixed, a `read` of the renamed state is the renamed `read`. -/
theorem exec_renameFaults {i : Instr} {s t : State} (hr : nextResponse (renameFaults g s) = renameResponse g (nextResponse s))
    (ht : exec i s = .next t) : exec i (renameFaults g s) = .next (renameFaults g t) := by
  obtain ⟨k, hk, rfl⟩ | ⟨b0, b1, b2, b3, hb, hk, rfl⟩ := exec_cases ht
  · have hk' : errorOf (nextResponse (renameFaults g s)) = some (renameKind g k) := by
      rw [hr, errorOf_renameResponse, hk, Option.map_some]
    rw [exec_of_error i hk', hr, loaded_renameFaults, raiseError_renameFaults]
  · rw [hb] at hr hk
    rw [exec_of_no_error i hr hk, decodedBy_renameFaults]

end

end Sys2Proof.Machine
end

section
/-! PROOFS. The host, the step and the run (10_state.md sections 3, 6, 8 and 11, 40_read_operations.md section 3, 41_transaction_sequence.md,
70_reset_and_hazards.md section 4). -/

namespace Sys2Proof.Machine

/-- Settles O39: each register read is `readHeld` on its register; without the converter the float registers are refused. -/
theorem hostReadsOfNoneFault : Obligations.HostReadsOfNoneFault := by
  intro s
  refine ⟨fun h => ?_, fun v h => ?_, fun h => ?_, fun v h => ?_, fun h => ?_, fun v h => ?_, fun h => ?_, fun v h => ?_, rfl,
    fun _ _ => rfl⟩
  · rw [hostReadX0, h, readHeld_none]
  · rw [hostReadX0, h, readHeld_some]
  · rw [hostReadX1, h, readHeld_none]
  · rw [hostReadX1, h, readHeld_some]
  · rw [hostReadF0_eq, h, readHeld_none]
  · rw [hostReadF0_eq, h, readHeld_some]
  · rw [hostReadF1_eq, h, readHeld_none]
  · rw [hostReadF1_eq, h, readHeld_some]

/-- Settles O40: with DONE set the invariant gives the shape's registers after a success, and a named kind after an error. -/
theorem hostTakesAResultExactlyAfterARead : Obligations.HostTakesAResultExactlyAfterARead := fun _ => hostTakeResult_isSome

/-- Settles O41: the step runs a `read`, and the options of a call are the two bits of its word. -/
theorem stepRefinesTheDocumentsRead : Obligations.StepRefinesTheDocumentsRead := by
  have hcall : ∀ (s : State) (c : HostCall) (rest : List HostCall), s.program = c :: rest →
      ∃ t, step s = .next t ∧ hostTakeResult t = some (documentRead (c.cmd.getLsbD 0) (c.cmd.getLsbD 1) c.resp) := by
    intro s c rest hp
    obtain ⟨t, ht, hexec, -⟩ := step_call_completes hp
    refine ⟨t, ht, ?_⟩
    rw [hostTakeResult_of_exec hexec, raw_decodeCmd, returnInternal_decodeCmd, nextResponse_called]
  refine ⟨hcall, fun s returnInternal raw resp hp => ?_⟩
  obtain ⟨h0, h1⟩ := getLsbD_commandWord returnInternal raw
  have hhead : (hostCallRead returnInternal raw resp s).program = [⟨commandWord returnInternal raw, resp⟩] := by
    rw [hostCallRead, hp, List.nil_append]
  obtain ⟨t, ht, htake⟩ := hcall _ _ _ hhead
  rw [h0, h1] at htake
  exact ⟨t, ht, htake⟩

/-- Settles O42: the byte of the call's word decodes to the form of the word. -/
theorem stepRunsTheCalledForm : Obligations.StepRunsTheCalledForm := by
  intro s c rest i hp hdecode _
  have hbyte := decode_encode (decodeCmd c.cmd) []
  rw [encode, encodeCmd_decodeCmd, List.append_nil, hdecode] at hbyte
  cases hbyte
  exact step_call hp

/-- Settles O43: without a call the step fetches nothing. -/
theorem stepWaitsWithoutACall : Obligations.StepWaitsWithoutACall := fun _ => step_idle

/-- Settles O44: the call put at the head of the list is the one the step runs, and its zero frame has no fault bit. -/
theorem fetchWordRunsNext : Obligations.FetchWordRunsNext := by
  intro s w i hw hdecode
  have hform : decodeTableWord 8 w = some (decodeCmd (BitVec.ofNat 2 w)) := by
    interval_cases w <;> rfl
  obtain rfl := Option.some.inj (hform.symm.trans hdecode)
  have hp : (s.withFetchWord 8 w).program = zeroFrameCall w :: s.program := rfl
  obtain ⟨t, ht, hexec, -⟩ := step_call_completes hp
  refine ⟨step_call hp, t, ht, ?_⟩
  rw [status_of_exec hexec, statusCode_pack, nextResponse_called, codeOf_eq_codeOk_iff]
  rfl

/-- Settles O45: the call the host appends to the empty list holds the word it wrote. -/
theorem hostWrittenCommandIsSampled : Obligations.HostWrittenCommandIsSampled := by
  intro s c resp hp
  have hhead : (hostStartRead resp (hostWriteCmd c s)).program = [⟨c, resp⟩] := by
    rw [hostStartRead, hostWriteCmd_program, hp, hostWriteCmd_cmd, List.nil_append]
  obtain ⟨t, ht, -, hframe⟩ := step_call_completes hhead
  exact ⟨t, ht, hframe.cmd_kept, hframe.shape_set⟩

/-- Settles O46: a step waits or runs a `read`, which completes on every path. -/
theorem everyStepCompletes : Obligations.EveryStepCompletes := step_completes

/-- Settles O48: the status of a `read` by its word and its response; waiting keeps the flag, a `read` sets it. -/
theorem statusWordAfterAStep : Obligations.StatusWordAfterAStep := by
  constructor
  · intro s t c rest hp ht
    have hstatus := status_of_exec ((step_call hp).symm.trans ht)
    rw [encodeCmd_decodeCmd, nextResponse_called] at hstatus
    refine ⟨(codeOf c.resp).toNat, codeOf_le c.resp, by rw [hstatus, packStatus_toNat], ?_⟩
    rw [← codeOf_eq_codeOk_iff, codeOk, BitVec.toNat_eq]
    rfl
  · intro s t hdone ht
    cases hp : s.program with
    | nil => exact Host.Outcome.next.inj ((step_idle hp).symm.trans ht) ▸ hdone
    | cons c rest => exact (readFrame_of_exec ((step_call hp).symm.trans ht)).done_set

/-- Settles O49: both steps run the same form on the same response, so they report the same. -/
theorem consecutiveIdenticalReadsAgree : Obligations.ConsecutiveIdenticalReadsAgree := by
  intro s c rest hp
  obtain ⟨t, ht, hexec, hframe⟩ := step_call_completes hp
  obtain ⟨u, hu, hexec', hframe'⟩ := step_call_completes hframe.program_kept
  exact ⟨t, u, ht, hu, sameReport_of_exec hexec hexec' rfl, hframe.trace_grown, hframe'.trace_grown, hframe'.program_kept⟩

/-- Settles O50: by induction on the list of calls. -/
theorem runExecutesEveryCallOnce : Obligations.RunExecutesEveryCallOnce := run_program

/-- Settles O51: both runs end with the `read` of the last call, whose report its response alone decides. -/
theorem lastCallDecidesTheReport : Obligations.LastCallDecidesTheReport := by
  intro s s' calls calls' c hp hp'
  obtain ⟨u, t, hexec, hrun⟩ := run_last_call hp
  obtain ⟨u', t', hexec', hrun'⟩ := run_last_call hp'
  exact ⟨t, t', hrun, hrun', sameReport_of_exec hexec hexec' rfl,
    (readFrame_of_exec hexec).cmd_kept.trans (readFrame_of_exec hexec').cmd_kept.symm⟩

/-- Settles O52: the renamed call runs in the renamed state, and a `read` treats a renamed response as the renamed one. -/
theorem errorValuesPassThroughUnread : Obligations.ErrorValuesPassThroughUnread := by
  intro g s
  cases hp : s.program with
  | nil => exact ⟨s, step_idle hp, step_idle (by rw [renameFaults, hp, List.map_nil])⟩
  | cons c rest =>
    obtain ⟨t, ht, hexec, -⟩ := step_call_completes hp
    have hp' : (renameFaults g s).program =
        ⟨c.cmd, renameResponse g c.resp⟩ :: rest.map fun d => { d with resp := renameResponse g d.resp } := by
      rw [renameFaults, hp, List.map_cons]
    refine ⟨t, ht, ?_⟩
    rw [step_call hp', called_renameFaults]
    exact exec_renameFaults g rfl hexec

end Sys2Proof.Machine
end

section
/-! SUPPORT. Accesses of any length, byte by byte, and the canonical listing (20_memory.md sections 1 and 2). -/

namespace Sys2Proof.Machine

/-! ### Reads -/

/-- The `k`-th byte of a value of `n` bytes, the most significant first (20_memory.md R42). -/
def byteAt {n : Nat} (v : BitVec (8 * n)) (k : Nat) : Byte := v.extractLsb' (8 * (n - 1 - k)) 8

/-- The last byte of a value is its least significant. -/
theorem byteAt_last {n : Nat} (v : BitVec (8 * (n + 1))) : byteAt v n = v.extractLsb' 0 8 := by
  rw [byteAt, Nat.add_sub_cancel, Nat.sub_self]

/-- The bytes before the last are those of the value without it. -/
theorem byteAt_init {n k : Nat} (v : BitVec (8 * (n + 1))) (hk : k < n) :
    byteAt (n := n) (v.extractLsb' 8 (8 * n)) k = byteAt v k := by
  rw [byteAt, byteAt, extract_extract v (by omega), show 8 + 8 * (n - 1 - k) = 8 * (n + 1 - 1 - k) by omega]

/-- A value is what is above its last byte, and that byte. -/
theorem init_append_last {n : Nat} (v : BitVec (8 * (n + 1))) : v.extractLsb' 8 (8 * n) ++ v.extractLsb' 0 8 = v :=
  (BitVec.extractLsb'_append_extractLsb'_eq_extractLsb' rfl).trans BitVec.extractLsb'_eq_self

/-- A read gives a value exactly when its bytes are the bytes of the value. -/
theorem memRead_eq_next_iff {m : Memory} {addr n : Nat} {v : BitVec (8 * n)} :
    memRead m addr n = .next v ↔ ∀ k, k < n → readByte m (addr + k) = .next (byteAt v k) := by
  induction n with
  | zero => exact ⟨fun _ k hk => absurd hk (Nat.not_lt_zero k), fun _ => congrArg Host.Outcome.next (BitVec.eq_nil v).symm⟩
  | succ n ih =>
    constructor
    · intro h k hk
      obtain ⟨hinit, hlast⟩ := memRead_succ_eq_next h
      obtain hk | rfl := Nat.lt_succ_iff_lt_or_eq.mp hk
      · rw [ih.mp hinit k hk, byteAt_init v hk]
      · rw [hlast, byteAt_last]
    · intro h
      have hinit : memRead m addr n = .next (v.extractLsb' 8 (8 * n)) :=
        ih.mpr fun k hk => by rw [h k (Nat.lt_succ_of_lt hk), byteAt_init v hk]
      rw [memRead, hinit, andThen_next, h n (Nat.lt_succ_self n), andThen_next, byteAt_last]
      exact congrArg Host.Outcome.next (init_append_last v)

theorem readByte_cases (m : Memory) (a : Nat) : (∃ b, readByte m a = .next b) ∨ ∃ r, readByte m a = .fault r := by
  rw [readByte]
  split
  · split
    · exact .inl ⟨_, rfl⟩
    · exact .inr ⟨_, rfl⟩
  · exact .inr ⟨_, rfl⟩

/-- A read is never refused. -/
theorem memRead_cases (m : Memory) (addr n : Nat) : (∃ v, memRead m addr n = .next v) ∨ ∃ r, memRead m addr n = .fault r := by
  induction n with
  | zero => exact .inl ⟨_, rfl⟩
  | succ n ih =>
    rw [memRead]
    obtain ⟨hi, hhi⟩ | ⟨r, hr⟩ := ih
    · obtain ⟨lo, hlo⟩ | ⟨r, hr⟩ := readByte_cases m (addr + n)
      · exact .inl ⟨hi ++ lo, by rw [hhi, andThen_next, hlo, andThen_next]⟩
      · exact .inr ⟨r, by rw [hhi, andThen_next, hr, andThen_fault]⟩
    · exact .inr ⟨r, by rw [hr, andThen_fault]⟩

/-- A read that ends outside the buffer stops (log entry 20). -/
theorem memRead_outside (m : Memory) {addr n : Nat} (hn : 0 < n) (hout : 4 < addr + n) : ∃ r, memRead m addr n = .fault r := by
  obtain ⟨n, rfl⟩ := Nat.exists_eq_succ_of_ne_zero hn.ne'
  obtain ⟨v, hv⟩ | hfault := memRead_cases m addr (n + 1)
  · obtain ⟨-, hlast⟩ := memRead_succ_eq_next hv
    rw [read_outside m (by omega)] at hlast
    cases hlast
  · exact hfault

/-! ### Writes -/

theorem writeByte_inside (m : Memory) {a : Nat} (b : Byte) (h : a < 4) : writeByte m a b = .next (insertByte m a b) := by
  rw [writeByte, if_pos h]

theorem writeByte_outside (m : Memory) {a : Nat} (b : Byte) (h : 4 ≤ a) : writeByte m a b = .fault (.noSuchAddress a) := by
  rw [writeByte, if_neg (Nat.not_lt.mpr h)]

/-- A write inside the buffer stores the bytes of its value and keeps every other byte. -/
theorem memWrite_inside (m : Memory) {addr n : Nat} (v : BitVec (8 * n)) (h : addr + n ≤ 4) :
    ∃ m', memWrite m addr n v = .next m' ∧ (∀ k, k < n → readByte m' (addr + k) = .next (byteAt v k)) ∧
      (∀ a, a < addr ∨ addr + n ≤ a → readByte m' a = readByte m a) := by
  induction n with
  | zero => exact ⟨m, rfl, fun k hk => absurd hk (Nat.not_lt_zero k), fun _ _ => rfl⟩
  | succ n ih =>
    obtain ⟨m', hm', hbytes, hrest⟩ := ih (v.extractLsb' 8 (8 * n)) (by omega)
    refine ⟨insertByte m' (addr + n) (v.extractLsb' 0 8), ?_, fun k hk => ?_, fun a ha => ?_⟩
    · rw [memWrite, hm', andThen_next, writeByte_inside m' _ (by omega)]
    · obtain hk | rfl := Nat.lt_succ_iff_lt_or_eq.mp hk
      · rw [read_insert_other m' _ (by omega), hbytes k hk, byteAt_init v hk]
      · rw [read_insert_same m' _ (by omega), byteAt_last]
    · rw [read_insert_other m' _ (by omega), hrest a (by omega)]

/-- A write stops for no other reason than an address outside the buffer. -/
theorem memWrite_cases (m : Memory) (addr : Nat) {n : Nat} (v : BitVec (8 * n)) :
    (∃ m', memWrite m addr n v = .next m') ∨ ∃ a, memWrite m addr n v = .fault (.noSuchAddress a) := by
  induction n with
  | zero => exact .inl ⟨m, rfl⟩
  | succ n ih =>
    rw [memWrite]
    obtain ⟨m', hm'⟩ | ⟨a, ha⟩ := ih (v.extractLsb' 8 (8 * n))
    · rw [hm', andThen_next]
      by_cases hlast : addr + n < 4
      · exact .inl ⟨_, writeByte_inside m' _ hlast⟩
      · exact .inr ⟨_, writeByte_outside m' _ (Nat.not_lt.mp hlast)⟩
    · exact .inr ⟨a, by rw [ha, andThen_fault]⟩

/-- A write that ends outside the buffer stops (log entry 20). -/
theorem memWrite_outside (m : Memory) {addr n : Nat} (v : BitVec (8 * n)) (hn : 0 < n) (hout : 4 < addr + n) :
    ∃ a, memWrite m addr n v = .fault (.noSuchAddress a) := by
  obtain ⟨n, rfl⟩ := Nat.exists_eq_succ_of_ne_zero hn.ne'
  obtain ⟨m', hm'⟩ | hfault := memWrite_cases m addr v
  · obtain ⟨m1, -, hlast⟩ := andThen_eq_next hm'
    obtain ⟨hin, -⟩ := writeByte_eq_next hlast
    omega
  · exact hfault

/-! ### The canonical listing -/

theorem lookup_cons_same (m : Memory) (k : Nat) (b : Byte) : lookupByte ((k, b) :: m) k = some b := by
  rw [lookupByte, if_pos rfl]

theorem lookup_cons_other (m : Memory) {k a : Nat} (b : Byte) (h : k ≠ a) : lookupByte ((k, b) :: m) a = lookupByte m a := by
  rw [lookupByte, if_neg h]

theorem lookup_eq_none {m : Memory} {a : Nat} (h : ∀ c ∈ m, c.1 ≠ a) : lookupByte m a = none := by
  induction m with
  | nil => rfl
  | cons c m ih =>
    obtain ⟨hc, hm⟩ := List.forall_mem_cons.mp h
    rw [lookup_cons_other m c.2 hc, ih hm]

/-- An address below the first listed one holds no byte. -/
theorem lookup_below_head {m : Memory} {k a : Nat} {b : Byte} (hsorted : ((k, b) :: m).Pairwise fun c d => c.1 < d.1) (h : a < k) :
    lookupByte ((k, b) :: m) a = none := by
  obtain ⟨htail, -⟩ := List.pairwise_cons.mp hsorted
  refine lookup_eq_none (List.forall_mem_cons.mpr ⟨(Nat.ne_of_lt h).symm, fun c hc => ?_⟩)
  have hkc : k < c.1 := htail c hc
  omega

/-- Listings with rising addresses that hold the same bytes are the same listing. -/
theorem eq_of_lookup_eq {m m' : Memory} (hm : m.Pairwise fun c d => c.1 < d.1) (hm' : m'.Pairwise fun c d => c.1 < d.1)
    (h : ∀ a, lookupByte m a = lookupByte m' a) : m = m' := by
  induction m generalizing m' with
  | nil =>
    cases m' with
    | nil => rfl
    | cons c' m' => cases (h c'.1).trans (lookup_cons_same m' c'.1 c'.2)
  | cons c m ih =>
    obtain ⟨k, b⟩ := c
    cases m' with
    | nil => cases (h k).symm.trans (lookup_cons_same m k b)
    | cons c' m' =>
      obtain ⟨k', b'⟩ := c'
      have hk : k = k' := by
        obtain hlt | heq | hgt := Nat.lt_trichotomy k k'
        · cases (lookup_cons_same m k b).symm.trans ((h k).trans (lookup_below_head hm' hlt))
        · exact heq
        · cases (lookup_cons_same m' k' b').symm.trans ((h k').symm.trans (lookup_below_head hm hgt))
      subst hk
      have hb : b = b' := Option.some.inj ((lookup_cons_same m k b).symm.trans ((h k).trans (lookup_cons_same m' k b')))
      subst hb
      obtain ⟨hhead, htail⟩ := List.pairwise_cons.mp hm
      obtain ⟨hhead', htail'⟩ := List.pairwise_cons.mp hm'
      rw [ih htail htail' fun a => ?_]
      by_cases ha : k = a
      · subst ha
        rw [lookup_eq_none fun c hc => (Nat.ne_of_lt (hhead c hc)).symm,
          lookup_eq_none fun c hc => (Nat.ne_of_lt (hhead' c hc)).symm]
      · rw [← lookup_cons_other m b ha, ← lookup_cons_other m' b ha, h a]

/-- Inside the buffer the read shows exactly what is listed. -/
theorem lookup_eq_of_read_eq {m m' : Memory} {a : Nat} (ha : a < 4) (h : readByte m a = readByte m' a) :
    lookupByte m a = lookupByte m' a := by
  rw [readByte, readByte, if_pos ha, if_pos ha] at h
  cases hl : lookupByte m a with
  | none =>
    rw [hl] at h
    cases hl' : lookupByte m' a with
    | none => rfl
    | some b' => rw [hl'] at h; cases h
  | some b =>
    rw [hl] at h
    cases hl' : lookupByte m' a with
    | none => rw [hl'] at h; cases h
    | some b' => rw [hl'] at h; cases h; rfl

end Sys2Proof.Machine
end

section
/-! PROOFS. The byte order of the buffer and its canonical form (20_memory.md sections 1 and 2). -/

namespace Sys2Proof.Machine

/-- Settles O10: reads and writes byte by byte, and the views of a held frame as after its store. -/
theorem bufferIsBigEndian : Obligations.BufferIsBigEndian := by
  refine ⟨fun m addr n v h => ?_, fun m addr n v h => memRead_eq_next_iff.mp h, fun m addr n v hn hout => ?_, fun m w h => ?_,
    fun m h0 h1 h2 h3 => ?_⟩
  · obtain ⟨m', hm', hbytes, hrest⟩ := memWrite_inside m v h
    exact ⟨m', hm', memRead_eq_next_iff.mpr hbytes, hbytes, hrest⟩
  · exact ⟨memWrite_outside m v hn hout, memRead_outside m hn hout⟩
  · have hview := memRead_eq_loadFrame (m := m) (w := w) h
    exact ⟨(hview 0 2).trans (memRead_upper m w), (hview 2 2).trans (memRead_lower m w), (hview 1 1).trans (memRead_byte1 m w),
      (hview 3 1).trans (memRead_byte3 m w)⟩
  · constructor <;> refine memRead_eq_next_iff.mpr fun k hk => ?_ <;> interval_cases k
    · exact h0
    · exact h1
    · exact h2
    · exact h3

/-- Settles O11: both listings rise and have no address outside the buffer, and inside it a read shows what is listed. -/
theorem canonicalBuffersAreEqual : Obligations.CanonicalBuffersAreEqual := by
  intro m m' hm hm' h
  obtain ⟨hsorted, hinside⟩ := (wf_iff m).mp hm
  obtain ⟨hsorted', hinside'⟩ := (wf_iff m').mp hm'
  refine eq_of_lookup_eq hsorted hsorted' fun a => ?_
  by_cases ha : a < 4
  · exact lookup_eq_of_read_eq ha (h a)
  · rw [lookup_eq_none fun c hc => (Nat.lt_of_lt_of_le (hinside c hc) (Nat.not_lt.mp ha)).ne,
      lookup_eq_none fun c hc => (Nat.lt_of_lt_of_le (hinside' c hc) (Nat.not_lt.mp ha)).ne]

end Sys2Proof.Machine
end

section
/-! SUPPORT. The shift as a floor, and the raw values of all halves (42_fault_check_and_extract.md R126 to R129). -/

namespace Sys2Proof.Machine

/-- The floor law (the spec's general knowledge G2, log entry 18). -/
theorem asr_eq_floor (n : Int) (k : Nat) : asr n k = ⌊(n : ℚ) / (2 : ℚ) ^ k⌋ := by
  have h := Rat.floor_intCast_div_natCast n (2 ^ k)
  rw [Nat.cast_pow, Nat.cast_pow, Nat.cast_ofNat, Nat.cast_ofNat] at h
  exact h.symm

theorem asr_eq_sshiftRight (u : Half) (k : Nat) : asr (sint16 u) k = (u.sshiftRight k).toInt := by
  rw [BitVec.toInt_sshiftRight, Int.shiftRight_eq_div_pow, asr, sint16]
  norm_cast

theorem extractTC_range (u : Half) : -8192 ≤ extractTC (sint16 u) ∧ extractTC (sint16 u) ≤ 8191 := by
  rw [extractTC_sint16]
  exact ⟨BitVec.le_toInt _, BitVec.toInt_le⟩

theorem extractINT_range (l : Half) : -2048 ≤ extractINT (sint16 l) ∧ extractINT (sint16 l) ≤ 2047 := by
  rw [extractINT_sint16]
  exact ⟨BitVec.le_toInt _, BitVec.toInt_le⟩

/-- A half holds every integer of its 16 bits. -/
theorem sint16_ofInt {n : Int} (hl : -32768 ≤ n) (hu : n ≤ 32767) : sint16 (BitVec.ofInt 16 n) = n :=
  BitVec.toInt_ofInt_eq_self (by decide) (by omega) (by omega)

theorem extractTC_surjective {n : Int} (hl : -8192 ≤ n) (hu : n ≤ 8191) : ∃ u : Half, extractTC (sint16 u) = n := by
  refine ⟨BitVec.ofInt 16 (4 * n), ?_⟩
  rw [sint16_ofInt (by omega) (by omega)]
  exact extractTC_of_dropped (by omega) (by omega)

theorem extractINT_surjective {n : Int} (hl : -2048 ≤ n) (hu : n ≤ 2047) : ∃ l : Half, extractINT (sint16 l) = n := by
  refine ⟨BitVec.ofInt 16 (16 * n), ?_⟩
  rw [sint16_ofInt (by omega) (by omega)]
  exact extractINT_of_dropped (by omega) (by omega)

/-- The sign of the upper field of a half is the half's bit 15. -/
theorem decide_extractLsb_neg {a b : Nat} (u : Half) (hb : 0 < b) (hab : a + b = 16) :
    decide ((u.extractLsb' a b).toInt < 0) = u.getLsbD 15 := by
  rw [← BitVec.msb_eq_toInt, BitVec.msb_eq_getLsbD_last, BitVec.getLsbD_extractLsb', decide_eq_true (by omega), Bool.true_and,
    show a + (b - 1) = 15 by omega]

end Sys2Proof.Machine
end

section
/-! PROOFS. The datapath from a half to its raw value (42_fault_check_and_extract.md section 4). -/

namespace Sys2Proof.Machine

/-- Settles O14: both extractions are the shift by the spec's constant. -/
theorem shiftIsFieldExtraction : Obligations.ShiftIsFieldExtraction := fun u => ⟨extractTC_sint16 u, extractINT_sint16 u⟩

/-- Settles O15: integer division rounds down, and so does the sign-copying shift. -/
theorem arithmeticShiftIsFloor : Obligations.ArithmeticShiftIsFloor := ⟨asr_eq_floor, asr_eq_sshiftRight⟩

/-- Settles O16: a field's range by its width; `4 n` and `16 n` are halves whose raw value is `n`. -/
theorem rawValuesFillTheirRanges : Obligations.RawValuesFillTheirRanges := by
  refine ⟨fun u => ?_, fun n hl hu => ⟨extractTC_surjective hl hu, toInt_toBits32 hl hu⟩, fun n => extractINT_surjective⟩
  obtain ⟨htcl, htcu⟩ := extractTC_range u
  obtain ⟨hintl, hintu⟩ := extractINT_range u
  exact ⟨htcl, htcu, hintl, hintu⟩

/-- Settles O17: the register holds the field's value, and its high bits the field's sign, which is the half's. -/
theorem rawResultsAreSignExtended : Obligations.RawResultsAreSignExtended := by
  intro u l
  rw [extractTC_sint16, extractINT_sint16]
  refine ⟨rfl, rfl, fun j hl hu => ?_, fun j hl hu => ?_⟩
  · rw [toBits32_toInt_getLsbD _ hu (by omega), decide_extractLsb_neg u (by decide) (by decide)]
  · rw [toBits32_toInt_getLsbD _ hu (by omega), decide_extractLsb_neg l (by decide) (by decide)]

end Sys2Proof.Machine
end

section
/-! SUPPORT. The fields of a converted integer, the adjustment of its exponent, and which patterns stand for one number
(43_float_conversion.md R143 to R148; binary64 by log entry 17). -/

namespace Sys2Proof.Machine

/-! ### The fields of a converted integer -/

section
variable {n : Int} {k : Nat} (h : n ≠ 0) (hl : -8192 ≤ n) (hu : n ≤ 8191)
include h hl hu

theorem expField_floatBits : expField (floatBits n k) = 1023 + highestBit n.natAbs - k := by
  obtain ⟨-, hhigh, hp⟩ := highestBit_bounds h hl hu
  rw [floatBits_eq_packFloat k h, expField_packFloat (by split <;> decide) (by omega) (fraction_lt (by omega) hhigh)]

theorem signBit_floatBits : signBit (floatBits n k) = decide (n < 0) := by
  obtain ⟨-, hhigh, hp⟩ := highestBit_bounds h hl hu
  rw [floatBits_eq_packFloat k h, signBit_packFloat (by split <;> decide) (by omega) (fraction_lt (by omega) hhigh)]
  split <;> simp [*]

theorem isNormal_floatBits (hk : k ≤ 4) : IsNormal (floatBits n k) := by
  obtain ⟨-, -, hp⟩ := highestBit_bounds h hl hu
  rw [IsNormal, expField_floatBits h hl hu]
  omega

end

theorem floatValue_toFloat {n : Int} (hl : -8192 ≤ n) (hu : n ≤ 8191) : floatValue (toFloat n) = some (n : ℚ) := by
  rw [toFloat, floatValue_floatBits hl hu (by decide), pow_zero, div_one]

/-! ### The adjustment of the exponent (43_float_conversion.md R148) -/

theorem lowerExponent_zero (k : Nat) : lowerExponent 0#64 k = 0#64 := by
  rw [lowerExponent, if_pos (by decide)]

/-- A pattern with an exponent is no zero of either sign. -/
theorem lowerExponent_of_expField {v : F64} (k : Nat) (h : 0 < expField v) :
    lowerExponent v k = v - (BitVec.ofNat 64 k <<< 52) := by
  rw [lowerExponent, if_neg]
  intro hzero
  have hexp : v.extractLsb' 52 11 = (v.extractLsb' 0 63).extractLsb' 52 11 := by rw [extract_extract v (by decide)]
  rw [expField, hexp, hzero] at h
  exact absurd h (by decide)

theorem packFloat_sub_exponent {sign exponent fraction k : Nat} (hk : k ≤ exponent) :
    packFloat sign exponent fraction - (BitVec.ofNat 64 k <<< 52) = packFloat sign (exponent - k) fraction := by
  have hshift : BitVec.ofNat 64 k <<< 52 = BitVec.ofNat 64 (k * 2 ^ 52) := by
    apply BitVec.eq_of_toNat_eq
    rw [BitVec.toNat_shiftLeft, BitVec.toNat_ofNat, BitVec.toNat_ofNat, Nat.shiftLeft_eq, Nat.mod_mul_mod]
  rw [hshift, BitVec.sub_eq_iff_eq_add, packFloat, packFloat, ← BitVec.ofNat_add]
  exact congrArg (BitVec.ofNat 64) (by omega)

theorem floatBits_eq_lowerExponent {n : Int} {k : Nat} (hl : -8192 ≤ n) (hu : n ≤ 8191) (hk : k ≤ 4) :
    floatBits n k = lowerExponent (toFloat n) k := by
  by_cases h : n = 0
  · subst h
    rw [toFloat, floatBits_zero, floatBits_zero, lowerExponent_zero]
  · obtain ⟨hexp, -⟩ := isNormal_floatBits h hl hu (Nat.zero_le 4)
    rw [toFloat, lowerExponent_of_expField k hexp, floatBits_eq_packFloat k h, floatBits_eq_packFloat 0 h,
      packFloat_sub_exponent (by omega), Nat.sub_zero]

/-! ### Patterns of one number -/

theorem fracField_lt (v : F64) : fracField v < 2 ^ 52 := (v.extractLsb' 0 52).isLt

/-- The three fields are the whole pattern. -/
theorem eq_of_fields {v w : F64} (hs : signBit v = signBit w) (he : expField v = expField w) (hf : fracField v = fracField w) :
    v = w := by
  have hjoin : ∀ u : F64, BitVec.ofBool (signBit u) ++ u.extractLsb' 52 11 ++ u.extractLsb' 0 52 = u := by
    intro u
    rw [signBit, ofBool_getLsbD]
    iterate 2 rw [BitVec.extractLsb'_append_extractLsb'_eq_extractLsb']
    exact BitVec.extractLsb'_eq_self
    all_goals rfl
  rw [← hjoin v, ← hjoin w, hs, BitVec.eq_of_toNat_eq he, BitVec.eq_of_toNat_eq hf]

/-- The number without its sign. -/
def magnitude (v : F64) : ℚ := (2 ^ 52 + fracField v : ℚ) * (2 : ℚ) ^ ((expField v : ℤ) - 1075)

theorem magnitude_pos (v : F64) : 0 < magnitude v := by
  rw [magnitude]
  positivity

theorem floatValue_of_isNormal {v : F64} (h : IsNormal v) :
    floatValue v = some ((if signBit v then -1 else 1) * magnitude v) := by
  rw [IsNormal] at h
  rw [floatValue, if_pos h, mul_assoc]
  rfl

theorem floatValue_of_not_isNormal {v : F64} (h : ¬ IsNormal v) :
    floatValue v = if expField v = 0 ∧ fracField v = 0 then some 0 else none := by
  rw [IsNormal] at h
  rw [floatValue, if_neg h]

/-- Only a normal pattern stands for a number that is not zero. -/
theorem isNormal_of_floatValue {v : F64} {q : ℚ} (h : floatValue v = some q) (hq : q ≠ 0) : IsNormal v := by
  by_contra hnormal
  rw [floatValue_of_not_isNormal hnormal, Option.ite_none_right_eq_some] at h
  obtain ⟨-, h⟩ := h
  exact hq (Option.some.inj h).symm

/-- Only the two zeros stand for zero. -/
theorem fields_of_floatValue_zero {v : F64} (h : floatValue v = some 0) : expField v = 0 ∧ fracField v = 0 := by
  by_cases hnormal : IsNormal v
  · rw [floatValue_of_isNormal hnormal] at h
    have hzero := Option.some.inj h
    have hpos := magnitude_pos v
    split_ifs at hzero <;> linarith
  · rw [floatValue_of_not_isNormal hnormal, Option.ite_none_right_eq_some] at h
    exact h.1

theorem zero_of_floatValue_zero {v : F64} (h : floatValue v = some 0) : v = 0#64 ∨ v = 0x8000000000000000#64 := by
  obtain ⟨he, hf⟩ := fields_of_floatValue_zero h
  cases hs : signBit v with
  | false => exact .inl (eq_of_fields hs he hf)
  | true => exact .inr (eq_of_fields hs he hf)

/-- A leading one at bit 52 fixes the shift. -/
theorem shifted_inj {f g d e : Nat} (hf : f < 2 ^ 52) (hg : g < 2 ^ 52) (h : (2 ^ 52 + f) * 2 ^ d = (2 ^ 52 + g) * 2 ^ e) :
    d = e ∧ f = g := by
  have hle : ∀ {f g d e : Nat}, f < 2 ^ 52 → (2 ^ 52 + f) * 2 ^ d = (2 ^ 52 + g) * 2 ^ e → e ≤ d := by
    intro f g d e hf h
    by_contra hlt
    obtain ⟨c, rfl⟩ := Nat.exists_eq_add_of_lt (Nat.not_le.mp hlt)
    have hcancel : 2 ^ 52 + f = (2 ^ 52 + g) * (2 * 2 ^ c) :=
      Nat.eq_of_mul_eq_mul_right (Nat.two_pow_pos d) (by rw [h]; ring)
    have hc : 0 < 2 ^ c := Nat.two_pow_pos c
    nlinarith
  obtain rfl : d = e := Nat.le_antisymm (hle hg h.symm) (hle hf h)
  exact ⟨rfl, Nat.add_left_cancel (Nat.eq_of_mul_eq_mul_right (Nat.two_pow_pos d) h)⟩

theorem fields_of_magnitude_eq {v w : F64} (h : magnitude v = magnitude w) : expField v = expField w ∧ fracField v = fracField w := by
  rw [magnitude, magnitude, zpow_sub₀ two_ne_zero, zpow_sub₀ two_ne_zero, zpow_natCast, zpow_natCast, ← mul_div_assoc,
    ← mul_div_assoc, div_left_inj' (by positivity)] at h
  exact shifted_inj (fracField_lt v) (fracField_lt w) (by exact_mod_cast h)

/-- A number that is not zero has one pattern. -/
theorem eq_of_floatValue_eq {v w : F64} {q : ℚ} (hv : floatValue v = some q) (hw : floatValue w = some q) (hq : q ≠ 0) : v = w := by
  have hvalue := hv.trans hw.symm
  rw [floatValue_of_isNormal (isNormal_of_floatValue hv hq), floatValue_of_isNormal (isNormal_of_floatValue hw hq),
    Option.some.injEq] at hvalue
  have hvpos := magnitude_pos v
  have hwpos := magnitude_pos w
  have hsign : signBit v = signBit w := by
    by_contra hne
    obtain hs : signBit v = !signBit w := Bool.eq_not_of_ne hne
    rw [hs] at hvalue
    cases hw : signBit w <;> simp [hw] at hvalue <;> linarith
  rw [hsign] at hvalue
  have hmag : magnitude v = magnitude w := mul_left_cancel₀ (by split_ifs <;> norm_num) hvalue
  obtain ⟨he, hf⟩ := fields_of_magnitude_eq hmag
  exact eq_of_fields hsign he hf

end Sys2Proof.Machine
end

section
/-! PROOFS. The converter (43_float_conversion.md sections 2 and 3). -/

namespace Sys2Proof.Machine

/-- Settles O18: the number of a converted integer is the integer, divided by the power of two; the constants and examples are
converted integers themselves. -/
theorem scalingDividesAndMultipliesExactly : Obligations.ScalingDividesAndMultipliesExactly := by
  refine ⟨?_, ?_, fun n hl hu => ⟨n, floatValue_toFloat hl hu, rfl, floatValue_scaleTC hl hu⟩, fun n hl hu => ?_, by decide, ?_,
    by decide, ?_, by decide, ?_⟩
  · rw [show 0x4010000000000000#64 = toFloat 4 by decide, floatValue_toFloat (by decide) (by decide)]
    norm_num
  · rw [show 0x3FB0000000000000#64 = scaleINT 1 by decide, floatValue_scaleINT (by decide) (by decide)]
    norm_num
  · refine ⟨n, floatValue_toFloat (by omega) (by omega), rfl, ?_⟩
    rw [floatValue_scaleINT hl hu, mul_one_div]
  · rw [floatValue_scaleTC (by decide) (by decide)]
    norm_num
  · rw [floatValue_scaleTC (by decide) (by decide)]
    norm_num
  · rw [floatValue_scaleINT (by decide) (by decide)]
    norm_num

/-- Settles O19: a number that is not zero has one pattern, zero has two. -/
theorem scaledPatternIsUnique : Obligations.ScaledPatternIsUnique := by
  constructor <;> intro n v hl hu hv
  · by_cases hn : n = 0
    · subst hn
      rw [Int.cast_zero, zero_div] at hv
      exact (zero_of_floatValue_zero hv).imp_right fun h => ⟨rfl, h⟩
    · exact .inl (eq_of_floatValue_eq hv (floatValue_scaleTC hl hu) (div_ne_zero (Int.cast_ne_zero.mpr hn) (by norm_num)))
  · by_cases hn : n = 0
    · subst hn
      rw [Int.cast_zero, zero_div] at hv
      exact (zero_of_floatValue_zero hv).imp_right fun h => ⟨rfl, h⟩
    · exact .inl (eq_of_floatValue_eq hv (floatValue_scaleINT hl hu) (div_ne_zero (Int.cast_ne_zero.mpr hn) (by norm_num)))

/-- Settles O20: the exponent field of a converted integer lies well inside the range of normal numbers, its sign bit is the sign. -/
theorem converterMakesNoSpecialValue : Obligations.ConverterMakesNoSpecialValue :=
  ⟨floatBits_zero 2, floatBits_zero 4,
    fun _ hl hu h => ⟨isNormal_floatBits h hl hu (by decide), signBit_floatBits h hl hu⟩,
    fun _ hl hu h => ⟨isNormal_floatBits h (by omega) (by omega) (by decide), signBit_floatBits h (by omega) (by omega)⟩⟩

/-- Settles O21: conversion at scale `k` is conversion at scale 0 with the exponent lowered by `k`. -/
theorem scalingIsAnExponentAdjustment : Obligations.ScalingIsAnExponentAdjustment :=
  ⟨fun _ hl hu => floatBits_eq_lowerExponent hl hu (by decide),
    fun _ hl hu => floatBits_eq_lowerExponent (by omega) (by omega) (by decide)⟩

end Sys2Proof.Machine
end
